-- ==== Sys2Proof/Word.lean ====
section
/-! DEFINITION. The words of the unit, and the fixed names that fields of a command stand for. -/

namespace Sys2Proof

/-- A byte: an unsigned 8-bit number (00_scope.md section 6). -/
abbrev Byte := BitVec 8

/-- The width of a command word and of an n16 (30_encoding.md R70, 40_primitives.md R91). -/
abbrev Half := BitVec 16

/-- The width of `RES` and of `wdata` (10_state.md R17, R18). -/
abbrev Word := BitVec 64

/-- `Bytes`: a finite byte sequence, offset 0 first on the wire (00_scope.md section 6). -/
abbrev Bytes := List Byte

/-- The four packet slots `P0` to `P3` (00_scope.md R4, 10_state.md R11). -/
inductive SlotId where
  | p0 | p1 | p2 | p3
  deriving DecidableEq, Repr

/-- The header layouts the codec knows (30_encoding.md R68). -/
inductive Layout where
  | arp | eth | ip4
  deriving DecidableEq, Repr

/-- The seven control and status registers (10_state.md R21, 30_encoding.md R74). -/
inductive Csr where
  | ctl | st | fcause | lmac | lip | rxlen | txlen
  deriving DecidableEq, Repr

/-- The comparand of `MACEQ` and `IPEQ` (30_encoding.md R73).  Only `WDATA` uses the data operand. -/
inductive Comparand where
  | wdata (v : Word)
  | localAddr
  | bcast
  | zero
  deriving DecidableEq, Repr

/-- The byte order of the host at the scalar ports (00_scope.md R2). -/
inductive HostOrder where
  | little | big
  deriving DecidableEq, Repr

end Sys2Proof
end

