-- ==== Sys2Proof/Config.lean ====
section
/-! DEFINITION. What one unit fixes for good: the open parameter `MAXBUF` and the decided host byte order. -/

namespace Sys2Proof

/-- `MAXBUF - 60`.  It has no body, so nothing can be proved of it but `60 <= MAXBUF < 2^32` (00_scope.md R3, decision D4; log
entry 4): every claim holds for every admissible `MAXBUF`. -/
opaque Config.maxBufAbove60 : Fin 4294967236

/-- `MAXBUF`: the largest length in bytes of any byte buffer the unit holds (00_scope.md R3). -/
def Config.maxBuf : Nat := Config.maxBufAbove60.val + 60

/-- `HOST_ORDER = little` (00_scope.md R2, decision D3). -/
def Config.hostOrder : HostOrder := .little

end Sys2Proof
end

