-- ==== Sys2Proof/Syntax.lean ====
section
/-! DEFINITION. The instructions: one constructor per row of spec/opcode_table.json. -/

namespace Sys2Proof

/-- A command of NETCODEC command set 1.0 with its operands (30_encoding.md R72), the data operand `v` being the whole 64-bit
`wdata` where the command reads it.  The last two constructors stand for the table's `arp_oper` rows, which are values of the
ARP `oper` field and "are not commands" (30_encoding.md R79): no command word decodes to them. -/
inductive Instr where
  | nop
  | csrr (csr : Csr)
  | csrw (csr : Csr) (v : Word)
  | swap16 (v : Word)
  | n16set (v : Word)
  | n16get
  | n16ldr (v : Word)
  | n16str
  | n16d
  | maceq (sa : SlotId) (sel : BitVec 4) (cmp : Comparand)
  | ipeq (sa : SlotId) (sel : BitVec 4) (cmp : Comparand)
  | ftrace (sa : SlotId) (sel : BitVec 4)
  | decode (sa : SlotId) (lay : Layout)
  | encode (sa : SlotId)
  | fget (sa : SlotId) (sel : BitVec 4)
  | fset (sa : SlotId) (sel : BitVec 4) (v : Word)
  | paylen (sa : SlotId)
  | pcopy (sa sb : SlotId)
  | pclr (sa : SlotId)
  | payrx (sa : SlotId)
  | txpay (sa : SlotId)
  | ptrace (sa : SlotId)
  | respond (sa sb : SlotId)
  | dispatch (lay : Layout)
  | emit
  | arpRequest
  | arpReply
  deriving DecidableEq, Repr

end Sys2Proof
end

