-- ==== Sys2Proof/WellFormed.lean ====
section
/-! DEFINITION. Which instructions some legal command word stands for. -/

namespace Sys2Proof

/-- The registers `CSRW` may name: `CTL`, `LMAC`, `LIP`; the other four are read-only (10_state.md R21, 30_encoding.md R75 (d)). -/
def Csr.writable : Csr → Bool
  | .ctl | .lmac | .lip => true
  | .st | .fcause | .rxlen | .txlen => false

/-- `true` when a legal command word (30_encoding.md R75) stands for the instruction.  Two checks: `CSRW` names a writable
register, and the instruction is a command at all (30_encoding.md R79). -/
def Instr.wf : Instr → Bool
  | .csrw csr _ => csr.writable
  | .arpRequest | .arpReply => false
  | .nop | .csrr _ | .swap16 _ | .n16set _ | .n16get | .n16ldr _ | .n16str | .n16d => true
  | .maceq _ _ _ | .ipeq _ _ _ | .ftrace _ _ => true
  | .decode _ _ | .encode _ | .fget _ _ | .fset _ _ _ | .paylen _ | .pcopy _ _ => true
  | .pclr _ | .payrx _ | .txpay _ | .ptrace _ => true
  | .respond _ _ | .dispatch _ | .emit => true

end Sys2Proof
end

