-- ==== Sys2Proof/Decode.lean ====
section
/-! DEFINITION. The command word: the decoder, total on every word and rejecting by name, and the encoder. -/

namespace Sys2Proof

/-! ### The fields of the command word (30_encoding.md R70) -/

/-- `op`, bits 7 to 0. -/
def opBits (cw : Half) : BitVec 8 := cw.extractLsb' 0 8

/-- `sa`, bits 9 to 8. -/
def saBits (cw : Half) : BitVec 2 := cw.extractLsb' 8 2

/-- `sb` (or `cmp`), bits 11 to 10. -/
def sbBits (cw : Half) : BitVec 2 := cw.extractLsb' 10 2

/-- `sel` (or a CSR number), bits 15 to 12. -/
def selBits (cw : Half) : BitVec 4 := cw.extractLsb' 12 4

/-- A layout id, bits 13 to 12. -/
def layBits (cw : Half) : BitVec 2 := cw.extractLsb' 12 2

/-- The slot of a 2-bit slot number (30_encoding.md R70). -/
def SlotId.ofBits (b : BitVec 2) : SlotId :=
  match b.toNat with
  | 0 => .p0
  | 1 => .p1
  | 2 => .p2
  | _ => .p3

/-- The slot's number. -/
def SlotId.bits : SlotId → BitVec 2
  | .p0 => 0
  | .p1 => 1
  | .p2 => 2
  | .p3 => 3

/-- The layout of a 2-bit id; 3 is reserved (30_encoding.md R68). -/
def Layout.ofBits (b : BitVec 2) : Option Layout :=
  match b.toNat with
  | 0 => some .arp
  | 1 => some .eth
  | 2 => some .ip4
  | _ => none

/-- The layout's id. -/
def Layout.bits : Layout → BitVec 2
  | .arp => 0
  | .eth => 1
  | .ip4 => 2

/-- The register of a CSR number; 7 to 15 are reserved (30_encoding.md R74). -/
def Csr.ofBits (b : BitVec 4) : Option Csr :=
  match b.toNat with
  | 0 => some .ctl
  | 1 => some .st
  | 2 => some .fcause
  | 3 => some .lmac
  | 4 => some .lip
  | 5 => some .rxlen
  | 6 => some .txlen
  | _ => none

/-- The register's number. -/
def Csr.bits : Csr → BitVec 4
  | .ctl => 0
  | .st => 1
  | .fcause => 2
  | .lmac => 3
  | .lip => 4
  | .rxlen => 5
  | .txlen => 6

/-- The comparand of a `cmp` number; `WDATA` takes the data operand (30_encoding.md R73). -/
def Comparand.ofBits (b : BitVec 2) (wdata : Word) : Comparand :=
  match b.toNat with
  | 0 => .wdata wdata
  | 1 => .localAddr
  | 2 => .bcast
  | _ => .zero

/-- The comparand's number. -/
def Comparand.bits : Comparand → BitVec 2
  | .wdata _ => 0
  | .localAddr => 1
  | .bcast => 2
  | .zero => 3

/-- The data operand a comparand is presented with: `0` where the command ignores it (30_encoding.md R77). -/
def Comparand.operand : Comparand → Word
  | .wdata v => v
  | .localAddr | .bcast | .zero => 0

/-! ### The opcode map (30_encoding.md R72) -/

/-- Why a word is illegal (30_encoding.md R75).  All five cases fault `ECMD`. -/
inductive Illegal where
  /-- (a) `op` is not one of the 25 assigned values. -/
  | unassignedOp
  /-- (a) a field the command does not use is not zero. -/
  | unusedField
  /-- (b) the layout id is 3. -/
  | reservedLayout
  /-- (c) the CSR number is 7 to 15. -/
  | reservedCsr
  /-- (d) `CSRW` to a read-only register. -/
  | readOnlyCsr
  deriving DecidableEq, Repr

/-- One row of the opcode map: its words are those with `cw & mask = pattern`, and `read` takes the operands of such a word. -/
structure OpRow where
  mnemonic : String
  pattern : Half
  mask : Half
  read : Half → Word → Except Illegal Instr

/-- Is `cw` a word of the row? -/
def OpRow.covers (r : OpRow) (cw : Half) : Bool := cw &&& r.mask == r.pattern

/-- `CSRR`: the CSR number must be assigned (30_encoding.md R75 (c)). -/
def readCsrr (cw : Half) (_ : Word) : Except Illegal Instr :=
  match Csr.ofBits (selBits cw) with
  | none => .error .reservedCsr
  | some csr => .ok (.csrr csr)

/-- `CSRW`: the CSR number must be assigned and writable (30_encoding.md R75 (c), (d)). -/
def readCsrw (cw : Half) (wdata : Word) : Except Illegal Instr :=
  match Csr.ofBits (selBits cw) with
  | none => .error .reservedCsr
  | some csr => if csr.writable then .ok (.csrw csr wdata) else .error .readOnlyCsr

/-- `DECODE`: the layout id must not be 3 (30_encoding.md R75 (b)). -/
def readDecode (cw : Half) (_ : Word) : Except Illegal Instr :=
  match Layout.ofBits (layBits cw) with
  | none => .error .reservedLayout
  | some lay => .ok (.decode (SlotId.ofBits (saBits cw)) lay)

/-- `DISPATCH`: the layout id must not be 3 (30_encoding.md R75 (b)). -/
def readDispatch (cw : Half) (_ : Word) : Except Illegal Instr :=
  match Layout.ofBits (layBits cw) with
  | none => .error .reservedLayout
  | some lay => .ok (.dispatch lay)

/-- The rows of the system commands. -/
def systemRows : List OpRow :=
  [ ⟨"NOP", 0x0000, 0xFFFF, fun _ _ => .ok .nop⟩,
    ⟨"CSRR", 0x0001, 0x0FFF, readCsrr⟩,
    ⟨"CSRW", 0x0002, 0x0FFF, readCsrw⟩ ]

/-- The rows of the primitive commands. -/
def primitiveRows : List OpRow :=
  [ ⟨"SWAP16", 0x0010, 0xFFFF, fun _ v => .ok (.swap16 v)⟩,
    ⟨"N16SET", 0x0011, 0xFFFF, fun _ v => .ok (.n16set v)⟩,
    ⟨"N16GET", 0x0012, 0xFFFF, fun _ _ => .ok .n16get⟩,
    ⟨"N16LDR", 0x0013, 0xFFFF, fun _ v => .ok (.n16ldr v)⟩,
    ⟨"N16STR", 0x0014, 0xFFFF, fun _ _ => .ok .n16str⟩,
    ⟨"N16D", 0x0015, 0xFFFF, fun _ _ => .ok .n16d⟩,
    ⟨"MACEQ", 0x0016, 0x00FF, fun cw v =>
      .ok (.maceq (SlotId.ofBits (saBits cw)) (selBits cw) (Comparand.ofBits (sbBits cw) v))⟩,
    ⟨"IPEQ", 0x0017, 0x00FF, fun cw v =>
      .ok (.ipeq (SlotId.ofBits (saBits cw)) (selBits cw) (Comparand.ofBits (sbBits cw) v))⟩,
    ⟨"FTRACE", 0x0018, 0x0CFF, fun cw _ => .ok (.ftrace (SlotId.ofBits (saBits cw)) (selBits cw))⟩ ]

/-- The rows of the codec commands. -/
def codecRows : List OpRow :=
  [ ⟨"DECODE", 0x0020, 0xCCFF, readDecode⟩,
    ⟨"ENCODE", 0x0021, 0xFCFF, fun cw _ => .ok (.encode (SlotId.ofBits (saBits cw)))⟩,
    ⟨"FGET", 0x0022, 0x0CFF, fun cw _ => .ok (.fget (SlotId.ofBits (saBits cw)) (selBits cw))⟩,
    ⟨"FSET", 0x0023, 0x0CFF, fun cw v => .ok (.fset (SlotId.ofBits (saBits cw)) (selBits cw) v)⟩,
    ⟨"PAYLEN", 0x0024, 0xFCFF, fun cw _ => .ok (.paylen (SlotId.ofBits (saBits cw)))⟩,
    ⟨"PCOPY", 0x0025, 0xF0FF, fun cw _ =>
      .ok (.pcopy (SlotId.ofBits (saBits cw)) (SlotId.ofBits (sbBits cw)))⟩,
    ⟨"PCLR", 0x0026, 0xFCFF, fun cw _ => .ok (.pclr (SlotId.ofBits (saBits cw)))⟩,
    ⟨"PAYRX", 0x0027, 0xFCFF, fun cw _ => .ok (.payrx (SlotId.ofBits (saBits cw)))⟩,
    ⟨"TXPAY", 0x0028, 0xFCFF, fun cw _ => .ok (.txpay (SlotId.ofBits (saBits cw)))⟩,
    ⟨"PTRACE", 0x0029, 0xFCFF, fun cw _ => .ok (.ptrace (SlotId.ofBits (saBits cw)))⟩ ]

/-- The rows of the response commands. -/
def responseRows : List OpRow :=
  [ ⟨"RESPOND", 0x0030, 0xF0FF, fun cw _ =>
      .ok (.respond (SlotId.ofBits (saBits cw)) (SlotId.ofBits (sbBits cw)))⟩,
    ⟨"DISPATCH", 0x0031, 0xCFFF, readDispatch⟩,
    ⟨"EMIT", 0x0032, 0xFFFF, fun _ _ => .ok .emit⟩ ]

/-- The 25 rows of 30_encoding.md R72. -/
def opRows : List OpRow := systemRows ++ primitiveRows ++ codecRows ++ responseRows

/-- Is the `op` field of the word one of the 25 assigned values? -/
def opAssigned (cw : Half) : Bool := opRows.any fun r => opBits r.pattern == opBits cw

/-- The decoder of commands: the row whose words hold `cw` reads its operands; any other word is illegal
(43_system.md R180 step 1, 30_encoding.md R75). -/
def decode (cw : Half) (wdata : Word) : Except Illegal Instr :=
  match opRows.find? (fun r => r.covers cw) with
  | some r => r.read cw wdata
  | none => .error (if opAssigned cw then .unusedField else .unassignedOp)

/-- The decoder on the words of spec/opcode_table.json, bit 0 the least significant bit of the command word; bits 79 to 16,
where `nbits` reaches that far, are `wdata`, and it is 0 otherwise. -/
def decodeTableWord (nbits w : Nat) : Option Instr :=
  let v := w % 2 ^ nbits
  match decode (BitVec.ofNat 16 v) (BitVec.ofNat 64 (v / 65536)) with
  | .ok i => some i
  | .error _ => none

/-! ### The encoder (30_encoding.md R72, R77) -/

/-- `(sel << 12) | (sb << 10) | (sa << 8) | op` (30_encoding.md R72). -/
def commandWord (op : BitVec 8) (sa sb : BitVec 2) (sel : BitVec 4) : Half := sel ++ sb ++ sa ++ op

/-- The command `(cw, wdata)` of an instruction; `wdata` is 0 where the command ignores it (30_encoding.md R77).  The two
`arp_oper` rows have no command word: their values of the `oper` field stand here for want of one. -/
def encode : Instr → Half × Word
  | .nop => (commandWord 0x00 0 0 0, 0)
  | .csrr csr => (commandWord 0x01 0 0 csr.bits, 0)
  | .csrw csr v => (commandWord 0x02 0 0 csr.bits, v)
  | .swap16 v => (commandWord 0x10 0 0 0, v)
  | .n16set v => (commandWord 0x11 0 0 0, v)
  | .n16get => (commandWord 0x12 0 0 0, 0)
  | .n16ldr v => (commandWord 0x13 0 0 0, v)
  | .n16str => (commandWord 0x14 0 0 0, 0)
  | .n16d => (commandWord 0x15 0 0 0, 0)
  | .maceq sa sel cmp => (commandWord 0x16 sa.bits cmp.bits sel, cmp.operand)
  | .ipeq sa sel cmp => (commandWord 0x17 sa.bits cmp.bits sel, cmp.operand)
  | .ftrace sa sel => (commandWord 0x18 sa.bits 0 sel, 0)
  | .decode sa lay => (commandWord 0x20 sa.bits 0 (lay.bits.setWidth 4), 0)
  | .encode sa => (commandWord 0x21 sa.bits 0 0, 0)
  | .fget sa sel => (commandWord 0x22 sa.bits 0 sel, 0)
  | .fset sa sel v => (commandWord 0x23 sa.bits 0 sel, v)
  | .paylen sa => (commandWord 0x24 sa.bits 0 0, 0)
  | .pcopy sa sb => (commandWord 0x25 sa.bits sb.bits 0, 0)
  | .pclr sa => (commandWord 0x26 sa.bits 0 0, 0)
  | .payrx sa => (commandWord 0x27 sa.bits 0 0, 0)
  | .txpay sa => (commandWord 0x28 sa.bits 0 0, 0)
  | .ptrace sa => (commandWord 0x29 sa.bits 0 0, 0)
  | .respond sa sb => (commandWord 0x30 sa.bits sb.bits 0, 0)
  | .dispatch lay => (commandWord 0x31 0 0 (lay.bits.setWidth 4), 0)
  | .emit => (commandWord 0x32 0 0 0, 0)
  | .arpRequest => (0x0001, 0)
  | .arpReply => (0x0002, 0)

/-- The instruction's mnemonic in spec/opcode_table.json. -/
def Instr.mnemonic : Instr → String
  | .nop => "NOP"
  | .csrr _ => "CSRR"
  | .csrw _ _ => "CSRW"
  | .swap16 _ => "SWAP16"
  | .n16set _ => "N16SET"
  | .n16get => "N16GET"
  | .n16ldr _ => "N16LDR"
  | .n16str => "N16STR"
  | .n16d => "N16D"
  | .maceq _ _ _ => "MACEQ"
  | .ipeq _ _ _ => "IPEQ"
  | .ftrace _ _ => "FTRACE"
  | .decode _ _ => "DECODE"
  | .encode _ => "ENCODE"
  | .fget _ _ => "FGET"
  | .fset _ _ _ => "FSET"
  | .paylen _ => "PAYLEN"
  | .pcopy _ _ => "PCOPY"
  | .pclr _ => "PCLR"
  | .payrx _ => "PAYRX"
  | .txpay _ => "TXPAY"
  | .ptrace _ => "PTRACE"
  | .respond _ _ => "RESPOND"
  | .dispatch _ => "DISPATCH"
  | .emit => "EMIT"
  | .arpRequest => "ARP_REQUEST"
  | .arpReply => "ARP_REPLY"

/-! ### The operation codes of ARP packets (30_encoding.md R62, R79) -/

/-- The two interpreted values of the ARP `oper` field. -/
inductive ArpOper where
  | request | reply
  deriving DecidableEq, Repr

/-- The decoder of ARP packets' operation codes, from the table's `arp_oper` rows: 1 is a request, 2 is a reply, "no other
values are interpreted" (30_encoding.md R62, R79). -/
def ArpOper.ofCode (oper : Half) : Option ArpOper :=
  if oper &&& 0xFFFF == 0x0001 then some .request
  else if oper &&& 0xFFFF == 0x0002 then some .reply
  else none

/-- The operation code's value in the `oper` field. -/
def ArpOper.code : ArpOper → Half
  | .request => 0x0001
  | .reply => 0x0002

/-! ### Pseudo-instructions (30_encoding.md R78) -/

/-- The six pseudo-instructions. -/
inductive Pseudo where
  | cfgmac (m : Word)
  | cfgip (a : Word)
  | traceon
  | traceoff
  | rdst
  | rdcause
  deriving DecidableEq, Repr

/-- The one command a pseudo-instruction expands to (30_encoding.md R78). -/
def Pseudo.expand : Pseudo → Instr
  | .cfgmac m => .csrw .lmac m
  | .cfgip a => .csrw .lip a
  | .traceon => .csrw .ctl 1
  | .traceoff => .csrw .ctl 0
  | .rdst => .csrr .st
  | .rdcause => .csrr .fcause

end Sys2Proof
end

