-- ==== Sys2Proof/Machine/State.lean ====
section
/-! DEFINITION. The state of the unit as plain data, the host's moves, the reset state, and the reasons a step can stop. -/

namespace Sys2Proof.Machine

/-- A link address: 6 raw bytes, `b0` at the lowest offset (30_encoding.md R64). -/
structure Mac where
  b0 : Byte
  b1 : Byte
  b2 : Byte
  b3 : Byte
  b4 : Byte
  b5 : Byte
  deriving DecidableEq, Repr

/-- A network address: 4 raw bytes, `b0` at the lowest offset (30_encoding.md R65). -/
structure Ip4 where
  b0 : Byte
  b1 : Byte
  b2 : Byte
  b3 : Byte
  deriving DecidableEq, Repr

/-- An n16 cell in network order: `b0` is the more significant byte (10_state.md R16). -/
structure N16 where
  b0 : Byte
  b1 : Byte
  deriving DecidableEq, Repr

/-- A packet: a layout, the header bytes and the payload bytes (41_codec.md R120).  `Memory.wf` says that the header has the
layout's length. -/
structure Packet where
  lay : Layout
  hdr : Bytes
  pay : Bytes
  deriving DecidableEq, Repr

/-- The four packet slots; `none` is a slot with `v = 0` (10_state.md R11). -/
structure Slots where
  p0 : Option Packet
  p1 : Option Packet
  p2 : Option Packet
  p3 : Option Packet
  deriving DecidableEq, Repr

/-- The flags of `ST`: `V`, `Z`, `E`, `F` (10_state.md R20). -/
structure Flags where
  v : Bool
  z : Bool
  e : Bool
  f : Bool
  deriving DecidableEq, Repr

/-- The seven fault causes of the command interface (60_exceptions.md R202).  Raising one is a next state of the machine
(60_exceptions.md R203), never a stop of the model. -/
inductive Cause where
  | ecmd | eslot | elay | esel | eval | ecfg | elen
  deriving DecidableEq, Repr

/-- What a trace command appends (40_primitives.md R97). -/
inductive TraceEvent where
  | u8 (v : Byte)
  | n16 (v : Half)
  | mac (b : Bytes)
  | ip4 (b : Bytes)
  | pkt (lay : Layout) (hdr : Bytes) (paylen : Nat)
  deriving DecidableEq, Repr

/-- A move of the host (10_state.md R10, 43_system.md R180, R184 to R186). -/
inductive Move where
  | load (b : Bytes)
  | command (cw : Half) (wdata : Word)
  | observe
  | reset
  deriving DecidableEq, Repr

/-- The whole state: the unit's registers, buffers and histories (10_state.md R11 to R28), and the host's part, the moves
still to be made and the index of the next one (10_state.md R19).  `CTL.MACV` and `CTL.IPV` are `lmac.isSome` and
`lip.isSome`: a local address that has not been written "holds no value" (10_state.md R24, R25, R30). -/
structure State where
  /-- `P0` to `P3` (R11). -/
  slots : Slots
  /-- `RX`, the receive buffer (R14). -/
  rx : Bytes
  /-- `TX`, the transmit staging buffer (R15). -/
  tx : Bytes
  /-- `N`, the n16 cell (R16). -/
  n : N16
  /-- `RES`, the result register (R17). -/
  res : Word
  /-- `CTL.TRACE_EN` (R22). -/
  traceEn : Bool
  /-- `LMAC` (R24). -/
  lmac : Option Mac
  /-- `LIP` (R25). -/
  lip : Option Ip4
  /-- `ST` (R20). -/
  st : Flags
  /-- `FCAUSE`; `none` is code 0 (R23). -/
  fcause : Option Cause
  /-- `EMITS`, oldest invocation first (R27). -/
  emits : List (List Bytes)
  /-- `TRACE`, oldest event first (R28). -/
  trace : List TraceEvent
  /-- The host's moves still to be made, the next one first (R19, 70 R237). -/
  moves : List Move
  /-- The index of the host's next move (R19). -/
  pc : Nat
  deriving DecidableEq, Repr

/-- The state right after reset (10_state.md R30).  The host has no move to make: the unit "waits for the first command" (log
entry 1). -/
def State.reset : State where
  slots := ⟨none, none, none, none⟩
  rx := []
  tx := []
  n := ⟨0x00, 0x00⟩
  res := 0
  traceEn := false
  lmac := none
  lip := none
  st := ⟨false, false, false, false⟩
  fcause := none
  emits := []
  trace := []
  moves := []
  pc := 0

/-- The reasons the model stops with a fault.  No command of this hardware ever does: both can only come from dispatch tables
other than the hardware's own. -/
inductive Fault where
  /-- Raised by `handle` (so by `DISPATCH`) when a registered inner layer answers under the outer layer `lay` and `lay` has no
  `WRAP`: "a model that reaches it without supplying one is `stuck`" (93_implementation_defined.md U7).  Safe: the model stops
  where the spec gives no behaviour; unreachable under the default registry. -/
  | noWrapTable (lay : Layout)
  /-- Raised by `handle` (so by `DISPATCH`) when the registry nests deeper than its rank allows, which 42_response.md R162 rules
  out.  Safe: the model stops where the spec forbids the tables; unreachable under the default registry. -/
  | registryNotRanked (lay : Layout)
  deriving DecidableEq, Repr

/-- The reasons the model refuses. -/
inductive Refusal where
  /-- Raised by an arm of `exec` that has no meaning yet.  Safe: nothing is claimed of it. -/
  | notModelled (mnemonic : String)
  /-- Raised by the two `arp_oper` rows of the table, which "are not commands" (30_encoding.md R79; log entry 12).  Safe: the unit has no such
  command, and no command word decodes to them. -/
  | notACommand (mnemonic : String)
  /-- Raised by the host's move of loading a buffer longer than `MAXBUF`: "the host has no such move" (43_system.md R184,
  93_implementation_defined.md V12; log entry 13).  Safe: the spec itself refuses it. -/
  | loadTooLong
  deriving DecidableEq, Repr

end Sys2Proof.Machine
end

