-- ==== Sys2Proof/Machine/Layouts.lean ====
section
/-! DEFINITION. The header layouts: field kinds, field tables and header sizes (30_encoding.md R61, R66, R67, R69). -/

namespace Sys2Proof.Machine

/-- The kind of a header field (30_encoding.md R69). -/
inductive Kind where
  | u8 | n16 | ip4 | mac
  deriving DecidableEq, Repr

/-- A field's size in bytes by its kind (30_encoding.md R69). -/
def Kind.size : Kind → Nat
  | .u8 => 1
  | .n16 => 2
  | .ip4 => 4
  | .mac => 6

/-- One row of a layout's table: a named field at a byte offset. -/
structure FieldRow where
  name : String
  off : Nat
  kind : Kind
  deriving DecidableEq, Repr

/-- The field's size in bytes. -/
def FieldRow.size (r : FieldRow) : Nat := r.kind.size

/-! ### ARP (30_encoding.md R61) -/

def Field.arpHtype : FieldRow := ⟨"htype", 0, .n16⟩
def Field.arpPtype : FieldRow := ⟨"ptype", 2, .n16⟩
def Field.arpHlen : FieldRow := ⟨"hlen", 4, .u8⟩
def Field.arpPlen : FieldRow := ⟨"plen", 5, .u8⟩
def Field.arpOper : FieldRow := ⟨"oper", 6, .n16⟩
def Field.arpSrcMac : FieldRow := ⟨"src_mac", 8, .mac⟩
def Field.arpSrcIp : FieldRow := ⟨"src_ip", 14, .ip4⟩
def Field.arpDstMac : FieldRow := ⟨"dst_mac", 18, .mac⟩
def Field.arpDstIp : FieldRow := ⟨"dst_ip", 24, .ip4⟩

/-! ### Ethernet II (30_encoding.md R66, the default of `LAYOUTS[ETH]`; log entry 6) -/

def Field.ethDst : FieldRow := ⟨"dst", 0, .mac⟩
def Field.ethSrc : FieldRow := ⟨"src", 6, .mac⟩
def Field.ethEtype : FieldRow := ⟨"etype", 12, .n16⟩

/-! ### IPv4 (30_encoding.md R67, the default of `LAYOUTS[IP4]`; log entry 6) -/

def Field.ip4VerIhl : FieldRow := ⟨"ver_ihl", 0, .u8⟩
def Field.ip4Tos : FieldRow := ⟨"tos", 1, .u8⟩
def Field.ip4TotLen : FieldRow := ⟨"tot_len", 2, .n16⟩
def Field.ip4Id : FieldRow := ⟨"id", 4, .n16⟩
def Field.ip4FlagsFrag : FieldRow := ⟨"flags_frag", 6, .n16⟩
def Field.ip4Ttl : FieldRow := ⟨"ttl", 8, .u8⟩
def Field.ip4Proto : FieldRow := ⟨"proto", 9, .u8⟩
def Field.ip4Csum : FieldRow := ⟨"csum", 10, .n16⟩
def Field.ip4Src : FieldRow := ⟨"src", 12, .ip4⟩
def Field.ip4Dst : FieldRow := ⟨"dst", 16, .ip4⟩

/-- `N(L)`: the header size in bytes (30_encoding.md R61, R66, R67). -/
def headerSize : Layout → Nat
  | .arp => 28
  | .eth => 14
  | .ip4 => 20

/-- The rows of a layout's table, selector 0 first. -/
def fieldTable : Layout → List FieldRow
  | .arp => [Field.arpHtype, Field.arpPtype, Field.arpHlen, Field.arpPlen, Field.arpOper, Field.arpSrcMac,
      Field.arpSrcIp, Field.arpDstMac, Field.arpDstIp]
  | .eth => [Field.ethDst, Field.ethSrc, Field.ethEtype]
  | .ip4 => [Field.ip4VerIhl, Field.ip4Tos, Field.ip4TotLen, Field.ip4Id, Field.ip4FlagsFrag, Field.ip4Ttl,
      Field.ip4Proto, Field.ip4Csum, Field.ip4Src, Field.ip4Dst]

/-- The row a selector names in a layout, if there is one (30_encoding.md R69). -/
def fieldAt (lay : Layout) (sel : BitVec 4) : Option FieldRow := (fieldTable lay)[sel.toNat]?

end Sys2Proof.Machine
end

