-- ==== Sys2Proof/Machine/Operands.lean ====
section
/-! DEFINITION. The functional core over bytes and numbers: byte order, packing, field access, the packet codec, address
equality, sentinels, trace events and the operand width check. -/

namespace Sys2Proof.Machine

/-! ### Bytes in a space (20_memory.md R41) -/

/-- `MemRead(S, off, n)`: the `n` bytes of `S` from offset `off` on. -/
def memRead (space : Bytes) (off n : Nat) : Bytes := (space.drop off).take n

/-- `MemWrite(S, off, len(b), b)`: those bytes of `S` replaced by `b`, every other byte and the length kept. -/
def memWrite (space : Bytes) (off : Nat) (b : Bytes) : Bytes :=
  space.take off ++ b ++ space.drop (off + b.length)

/-! ### Numbers and bytes (40_primitives.md R90 to R93, 20_memory.md R43, R44) -/

/-- `pack(b)`: the number whose most significant byte is at offset 0 (20_memory.md R43). -/
def pack (b : Bytes) : Nat := b.foldl (fun acc x => acc * 256 + x.toNat) 0

/-- `unpack_k(v)`: the `k` bytes `b` with `pack(b) = v`. -/
def unpack : Nat → Nat → Bytes
  | 0, _ => []
  | k + 1, v => BitVec.ofNat 8 (v / 256 ^ k) :: unpack k v

/-- `be16(b) = b[0] * 256 + b[1]` (40_primitives.md R92). -/
def be16 (b : Bytes) : Nat := (b.getD 0 0).toNat * 256 + (b.getD 1 0).toNat

/-- `to_be16(v) = [v[15:8], v[7:0]]` (40_primitives.md R93). -/
def toBe16 (v : Half) : Bytes := [v.extractLsb' 8 8, v.extractLsb' 0 8]

/-- `swap16(v)`: the two bytes exchanged (40_primitives.md R91). -/
def swap16 (v : Half) : Half := v.extractLsb' 0 8 ++ v.extractLsb' 8 8

/-- `get` of an n16 cell: its host-order value (40_primitives.md R92). -/
def N16.get (c : N16) : Nat := be16 [c.b0, c.b1]

/-- `set`: the cell that holds `v` in network order (40_primitives.md R93). -/
def N16.ofValue (v : Half) : N16 := ⟨v.extractLsb' 8 8, v.extractLsb' 0 8⟩

/-- The raw view of a cell: its bytes as a host of order `o` sees them without converting (20_memory.md R44). -/
def N16.raw (o : HostOrder) (c : N16) : Half :=
  match o with
  | .little => c.b1 ++ c.b0
  | .big => c.b0 ++ c.b1

/-- The cell whose raw view is `raw` (20_memory.md R44, 40_primitives.md R103). -/
def N16.ofRaw (o : HostOrder) (raw : Half) : N16 :=
  match o with
  | .little => ⟨raw.extractLsb' 0 8, raw.extractLsb' 8 8⟩
  | .big => ⟨raw.extractLsb' 8 8, raw.extractLsb' 0 8⟩

/-- `to_host` (and `from_host`): between the raw view and the value (20_memory.md R44). -/
def toHost (o : HostOrder) (raw : Half) : Half :=
  match o with
  | .little => swap16 raw
  | .big => raw

/-- `wdata[63:w] = 0`: the operand fits `w` bits (40_primitives.md R98). -/
def fits (w : Nat) (v : Word) : Bool := decide (v.toNat < 2 ^ w)

/-! ### Addresses (40_primitives.md R95, R96) -/

/-- The bytes of a link address in wire order. -/
def Mac.toBytes (m : Mac) : Bytes := [m.b0, m.b1, m.b2, m.b3, m.b4, m.b5]

/-- `pack` of a link address. -/
def Mac.toBits (m : Mac) : BitVec 48 := m.b0 ++ m.b1 ++ m.b2 ++ m.b3 ++ m.b4 ++ m.b5

/-- `unpack_6`: the link address a 48-bit operand carries. -/
def Mac.ofBits (v : BitVec 48) : Mac :=
  ⟨v.extractLsb' 40 8, v.extractLsb' 32 8, v.extractLsb' 24 8, v.extractLsb' 16 8, v.extractLsb' 8 8, v.extractLsb' 0 8⟩

/-- The bytes of a network address in wire order. -/
def Ip4.toBytes (a : Ip4) : Bytes := [a.b0, a.b1, a.b2, a.b3]

/-- `pack` of a network address. -/
def Ip4.toBits (a : Ip4) : BitVec 32 := a.b0 ++ a.b1 ++ a.b2 ++ a.b3

/-- `unpack_4`: the network address a 32-bit operand carries. -/
def Ip4.ofBits (v : BitVec 32) : Ip4 :=
  ⟨v.extractLsb' 24 8, v.extractLsb' 16 8, v.extractLsb' 8 8, v.extractLsb' 0 8⟩

/-- `mac_eq` on the bytes of two link addresses: equal byte for byte (40_primitives.md R95). -/
def macEq (a b : Bytes) : Bool := decide (a = b)

/-- `ip_eq` on the bytes of two network addresses: equal byte for byte (40_primitives.md R95). -/
def ipEq (a b : Bytes) : Bool := decide (a = b)

/-- `BCAST_MAC = FF:FF:FF:FF:FF:FF` (00_scope.md R6). -/
def bcastMac : Mac := ⟨0xFF, 0xFF, 0xFF, 0xFF, 0xFF, 0xFF⟩

/-- `BCAST_IP`, at its default `255.255.255.255` (00_scope.md R6; log entry 5). -/
def bcastIp : Ip4 := ⟨0xFF, 0xFF, 0xFF, 0xFF⟩

/-- `ZERO_MAC` (40_primitives.md R96). -/
def zeroMac : Mac := ⟨0, 0, 0, 0, 0, 0⟩

/-- `ZERO_IP` (40_primitives.md R96). -/
def zeroIp : Ip4 := ⟨0, 0, 0, 0⟩

/-! ### The packet codec (41_codec.md R121, R122, R126, R127) -/

/-- `decode(L, b)`: nothing if `b` is shorter than the header, else header and payload (41_codec.md R121). -/
def decodePacket (lay : Layout) (b : Bytes) : Option Packet :=
  if b.length < headerSize lay then none
  else some ⟨lay, b.take (headerSize lay), b.drop (headerSize lay)⟩

/-- `encode(p)`: the header followed by the payload (41_codec.md R122). -/
def encodePacket (p : Packet) : Bytes := p.hdr ++ p.pay

/-- `fbytes(p, s)`: the bytes of a field (41_codec.md R126). -/
def Packet.fbytes (p : Packet) (r : FieldRow) : Bytes := memRead p.hdr r.off r.size

/-- The number that presents a field's bytes on a scalar port (30_encoding.md R69). -/
def fieldValue : Kind → Bytes → Nat
  | .u8, b => (b.getD 0 0).toNat
  | .n16, b => be16 b
  | .ip4, b => pack b
  | .mac, b => pack b

/-- `fget(p, s)` (41_codec.md R126). -/
def Packet.fget (p : Packet) (r : FieldRow) : Nat := fieldValue r.kind (p.fbytes r)

/-- The bytes that store an operand in a field of a kind (41_codec.md R127). -/
def fieldBytes : Kind → Word → Bytes
  | .u8, x => [x.setWidth 8]
  | .n16, x => toBe16 (x.setWidth 16)
  | .ip4, x => unpack 4 (x.setWidth 32).toNat
  | .mac, x => unpack 6 (x.setWidth 48).toNat

/-- A packet with the bytes of one field replaced. -/
def Packet.patch (p : Packet) (r : FieldRow) (b : Bytes) : Packet := { p with hdr := memWrite p.hdr r.off b }

/-- `fset(p, s, x)` (41_codec.md R127). -/
def Packet.fset (p : Packet) (r : FieldRow) (x : Word) : Packet := p.patch r (fieldBytes r.kind x)

/-! ### Trace events (40_primitives.md R97) -/

/-- `d_field(k, b)`. -/
def dField : Kind → Bytes → TraceEvent
  | .u8, b => .u8 (b.getD 0 0)
  | .n16, b => .n16 (BitVec.ofNat 16 (be16 b))
  | .mac, b => .mac b
  | .ip4, b => .ip4 b

/-- `d_pkt(p)`: the packet dump. -/
def dPkt (p : Packet) : TraceEvent := .pkt p.lay p.hdr p.pay.length

end Sys2Proof.Machine
end

