-- ==== Sys2Proof/Machine/Flags.lean ====
section
/-! DEFINITION. The flags of ST and the register views CSRR reads (10_state.md R20 to R26, 43_system.md R182). -/

namespace Sys2Proof.Machine

/-- `ST.V <- b` (10_state.md R20). -/
def State.setV (s : State) (b : Bool) : State := { s with st := { s.st with v := b } }

/-- `ST.Z <- b` (10_state.md R20). -/
def State.setZ (s : State) (b : Bool) : State := { s with st := { s.st with z := b } }

/-- `ST.E <- b` (10_state.md R20). -/
def State.setE (s : State) (b : Bool) : State := { s with st := { s.st with e := b } }

/-- `CTL.MACV`: 1 once `LMAC` has been written since reset (10_state.md R22, R24). -/
def State.macv (s : State) : Bool := s.lmac.isSome

/-- `CTL.IPV`: 1 once `LIP` has been written since reset (10_state.md R22, R25). -/
def State.ipv (s : State) : Bool := s.lip.isSome

/-- `CTL` as a word: bit 2 `IPV`, bit 1 `MACV`, bit 0 `TRACE_EN`, the rest zero (43_system.md R182). -/
def ctlWord (s : State) : Word :=
  (BitVec.ofBool s.ipv ++ BitVec.ofBool s.macv ++ BitVec.ofBool s.traceEn).setWidth 64

/-- `ST` as a word: bit 3 `F`, bit 2 `E`, bit 1 `Z`, bit 0 `V`, the rest zero (43_system.md R182). -/
def stWord (s : State) : Word :=
  (BitVec.ofBool s.st.f ++ BitVec.ofBool s.st.e ++ BitVec.ofBool s.st.z ++ BitVec.ofBool s.st.v).setWidth 64

/-- The code of a fault cause (60_exceptions.md R202). -/
def Cause.code : Cause → BitVec 3
  | .ecmd => 1
  | .eslot => 2
  | .elay => 3
  | .esel => 4
  | .eval => 5
  | .ecfg => 6
  | .elen => 7

/-- `FCAUSE[2:0]`: the code of the recorded cause, 0 when there is none (10_state.md R23). -/
def fcauseCode (s : State) : BitVec 3 :=
  match s.fcause with
  | none => 0
  | some c => c.code

end Sys2Proof.Machine
end

