-- ==== Sys2Proof/Machine/Ops.lean ====
section
/-! DEFINITION. The named operations over the state: slots, buffers, registers, histories, the fault entry, the command cycle,
and the host's moves. -/

namespace Sys2Proof.Machine

/-- What a step of this machine answers. -/
abbrev Out := Host.Outcome State Fault Refusal

/-! ### Packet slots (10_state.md R11) -/

/-- The contents of slot `i`. -/
def Slots.get (q : Slots) : SlotId → Option Packet
  | .p0 => q.p0
  | .p1 => q.p1
  | .p2 => q.p2
  | .p3 => q.p3

/-- The slots with slot `i` replaced. -/
def Slots.set (q : Slots) (i : SlotId) (o : Option Packet) : Slots :=
  match i with
  | .p0 => { q with p0 := o }
  | .p1 => { q with p1 := o }
  | .p2 => { q with p2 := o }
  | .p3 => { q with p3 := o }

/-- `P[i]`: `none` when `v = 0`. -/
def State.slot (s : State) (i : SlotId) : Option Packet := s.slots.get i

/-- `P[i] <- o`. -/
def State.setSlot (s : State) (i : SlotId) (o : Option Packet) : State := { s with slots := s.slots.set i o }

/-! ### Registers, buffers and histories (10_state.md R14 to R28) -/

/-- `RX <- b`. -/
def State.setRx (s : State) (b : Bytes) : State := { s with rx := b }

/-- `TX <- b`. -/
def State.setTx (s : State) (b : Bytes) : State := { s with tx := b }

/-- `N <- c`. -/
def State.setN (s : State) (c : N16) : State := { s with n := c }

/-- `RES <- v`, all 64 bits (10_state.md R17). -/
def State.setRes (s : State) (v : Word) : State := { s with res := v }

/-- `CTL.TRACE_EN <- b`. -/
def State.setTraceEn (s : State) (b : Bool) : State := { s with traceEn := b }

/-- `LMAC.bytes <- m; CTL.MACV <- 1` (10_state.md R24). -/
def State.setLmac (s : State) (m : Mac) : State := { s with lmac := some m }

/-- `LIP.bytes <- a; CTL.IPV <- 1` (10_state.md R25). -/
def State.setLip (s : State) (a : Ip4) : State := { s with lip := some a }

/-- `emit(bufs)` for each element in order: the invocations are appended to `EMITS` (10_state.md R27). -/
def State.emitAll (s : State) (ems : List (List Bytes)) : State := { s with emits := s.emits ++ ems }

/-- `trace(ev)` for each event in order: the events are appended to `TRACE` (10_state.md R28). -/
def State.traceAll (s : State) (evs : List TraceEvent) : State := { s with trace := s.trace ++ evs }

/-! ### The byte-addressed spaces (20_memory.md R40) -/

/-- The spaces a byte offset can name. -/
inductive Space where
  | rx | tx
  | hdr (i : SlotId)
  | pay (i : SlotId)
  | cell
  deriving DecidableEq, Repr

/-- The bytes of a space; the header and payload of an empty slot hold no byte. -/
def State.space (s : State) : Space → Bytes
  | .rx => s.rx
  | .tx => s.tx
  | .hdr i => match s.slot i with
    | none => []
    | some p => p.hdr
  | .pay i => match s.slot i with
    | none => []
    | some p => p.pay
  | .cell => [s.n.b0, s.n.b1]

/-- The byte at an offset of a space; `none` at and above the space's current length. -/
def State.byteAt (s : State) (sp : Space) (off : Nat) : Option Byte := (s.space sp)[off]?

/-- The canonical form of a slot: the header has its layout's length and the packet fits a buffer (10_state.md R12). -/
def slotWf (o : Option Packet) : Bool :=
  match o with
  | none => true
  | some p => p.hdr.length == headerSize p.lay && decide (headerSize p.lay + p.pay.length ≤ Config.maxBuf)

/-- The canonical form of the memory: every slot is well formed and `RX` and `TX` are at most `MAXBUF` long (10_state.md R12,
R14, R15). -/
def Memory.wf (s : State) : Bool :=
  slotWf s.slots.p0 && slotWf s.slots.p1 && slotWf s.slots.p2 && slotWf s.slots.p3 &&
    decide (s.rx.length ≤ Config.maxBuf) && decide (s.tx.length ≤ Config.maxBuf)

/-! ### Faults and the command cycle (60_exceptions.md R203, R205; 43_system.md R180) -/

/-- Fault entry with code `c`: `ST.F <- 1; FCAUSE <- c`, nothing else changes.  While halted no fault is raised
(60_exceptions.md R203, R205). -/
def State.takeFault (s : State) (c : Cause) : State :=
  if s.st.f then s else { s with st := { s.st with f := true }, fcause := some c }

/-- The end of a command: all its writes together, or the entry of its first fault and no other effect (43_system.md R180
steps 4, 5). -/
def finish (s : State) (r : Except Cause State) : Out :=
  match r with
  | .ok t => .next t
  | .error c => .next (s.takeFault c)

/-- A command that a halted unit ignores: every command but `NOP` and `CSRR` (43_system.md R180 step 2). -/
def command (s : State) (r : Except Cause State) : Out :=
  if s.st.f then .next s else finish s r

/-! ### Operand checks, each with the fault it raises (60_exceptions.md R202) -/

/-- The packet of a slot the command reads, else `ESLOT`. -/
def State.packet (s : State) (i : SlotId) : Except Cause Packet :=
  match s.slot i with
  | none => .error .eslot
  | some p => .ok p

/-- The row of a selector in a layout, else `ESEL` (30_encoding.md R69). -/
def fieldOf (lay : Layout) (sel : BitVec 4) : Except Cause FieldRow :=
  match fieldAt lay sel with
  | none => .error .esel
  | some r => .ok r

/-- The row of a selector in a layout when the field has the kind the command needs, else `ESEL` (40_primitives.md R106, R107). -/
def fieldOfKind (lay : Layout) (sel : BitVec 4) (k : Kind) : Except Cause FieldRow :=
  match fieldAt lay sel with
  | none => .error .esel
  | some r => if r.kind = k then .ok r else .error .esel

/-- The data operand when it fits `w` bits, else `EVAL` (40_primitives.md R98). -/
def operand (w : Nat) (v : Word) : Except Cause Word :=
  if fits w v then .ok v else .error .eval

/-- `LMAC.bytes`, else `ECFG` while `CTL.MACV = 0`. -/
def State.localMac (s : State) : Except Cause Mac :=
  match s.lmac with
  | none => .error .ecfg
  | some m => .ok m

/-- `LIP.bytes`, else `ECFG` while `CTL.IPV = 0`. -/
def State.localIp (s : State) : Except Cause Ip4 :=
  match s.lip with
  | none => .error .ecfg
  | some a => .ok a

/-- The bytes `MACEQ` compares with (40_primitives.md R106). -/
def State.macComparand (s : State) : Comparand → Except Cause Bytes
  | .wdata v => do
    let x ← operand 48 v
    return (Mac.ofBits (x.setWidth 48)).toBytes
  | .localAddr => do
    let m ← s.localMac
    return m.toBytes
  | .bcast => .ok bcastMac.toBytes
  | .zero => .ok zeroMac.toBytes

/-- The bytes `IPEQ` compares with (40_primitives.md R107). -/
def State.ipComparand (s : State) : Comparand → Except Cause Bytes
  | .wdata v => do
    let x ← operand 32 v
    return (Ip4.ofBits (x.setWidth 32)).toBytes
  | .localAddr => do
    let a ← s.localIp
    return a.toBytes
  | .bcast => .ok bcastIp.toBytes
  | .zero => .ok zeroIp.toBytes

/-! ### The host's moves (10_state.md R19; 43_system.md R184 to R186) -/

/-- The host's next move, and the state with it taken from the list and the index advanced by 1 (10_state.md R19). -/
def State.fetch (s : State) : Option (Move × State) :=
  match s.moves with
  | [] => none
  | m :: rest => some (m, { s with moves := rest, pc := s.pc + 1 })

/-- An illegal command word: `ECMD`, or nothing while halted (43_system.md R180 steps 2, 3). -/
def illegalWord (s : State) : Out := .next (s.takeFault .ecmd)

/-- Load: `RX <- b`; a buffer longer than `MAXBUF` cannot be loaded (43_system.md R184). -/
def hostLoad (b : Bytes) (s : State) : Out :=
  if b.length ≤ Config.maxBuf then .next (s.setRx b) else .refused .loadTooLong

/-- Observe: no effect (43_system.md R185, 20_memory.md R47). -/
def hostObserve (s : State) : Out := .next s

/-- Reset: the unit's state becomes that of 10_state.md R30; the host's own list and index are not the unit's (43_system.md R186,
70_reset_and_hazards.md R230). -/
def hostReset (s : State) : Out := .next { State.reset with moves := s.moves, pc := s.pc }

/-- No move left: the unit waits, idle, and holds its state (60_exceptions.md R214, 10_state.md R30; log entry 1). -/
def hostIdle (s : State) : Out := .next s

/-- What the host may read between commands without a command (43_system.md R185). -/
structure Visible where
  res : Word
  st : Flags
  tx : Bytes
  txlen : Nat
  emits : List (List Bytes)
  trace : List TraceEvent
  deriving DecidableEq, Repr

/-- The visible outputs of a state (43_system.md R185). -/
def State.visible (s : State) : Visible := ⟨s.res, s.st, s.tx, s.tx.length, s.emits, s.trace⟩

end Sys2Proof.Machine
end

