-- ==== Sys2Proof/Machine/Codec.lean ====
section
/-! DEFINITION. The meanings of the codec commands (41_codec.md part 2). -/

namespace Sys2Proof.Machine

/-- `DECODE Pa, lay`: `decode` of `RX` into a slot; a short buffer empties the slot and is no fault (41_codec.md R130). -/
def execDecode (sa : SlotId) (lay : Layout) (s : State) : Out :=
  command s <| .ok <|
    match decodePacket lay s.rx with
    | none => (s.setSlot sa none).setV false
    | some p => (s.setSlot sa (some p)).setV true

/-- `ENCODE Pa`: `encode` of a slot into `TX` (41_codec.md R131). -/
def execEncode (sa : SlotId) (s : State) : Out :=
  command s do
    let p ← s.packet sa
    return s.setTx (encodePacket p)

/-- `FGET Pa, field`: one field into `RES` (41_codec.md R132). -/
def execFget (sa : SlotId) (sel : BitVec 4) (s : State) : Out :=
  command s do
    let p ← s.packet sa
    let r ← fieldOf p.lay sel
    return s.setRes (BitVec.ofNat 64 (p.fget r))

/-- `FSET Pa, field, #x`: one field replaced (41_codec.md R133). -/
def execFset (sa : SlotId) (sel : BitVec 4) (v : Word) (s : State) : Out :=
  command s do
    let p ← s.packet sa
    let r ← fieldOf p.lay sel
    let x ← operand (8 * r.size) v
    return s.setSlot sa (some (p.fset r x))

/-- `PAYLEN Pa`: the payload length into `RES` (41_codec.md R134). -/
def execPaylen (sa : SlotId) (s : State) : Out :=
  command s do
    let p ← s.packet sa
    return s.setRes (BitVec.ofNat 64 p.pay.length)

/-- `PCOPY Pa, Pb`: slot `sb` cloned into slot `sa` (41_codec.md R135). -/
def execPcopy (sa sb : SlotId) (s : State) : Out :=
  command s do
    let p ← s.packet sb
    return s.setSlot sa (some p)

/-- `PCLR Pa`: the slot emptied (41_codec.md R136). -/
def execPclr (sa : SlotId) (s : State) : Out := command s (.ok (s.setSlot sa none))

/-- `PAYRX Pa`: the payload handed to the next decode (41_codec.md R137). -/
def execPayrx (sa : SlotId) (s : State) : Out :=
  command s do
    let p ← s.packet sa
    return s.setRx p.pay

/-- `TXPAY Pa`: `TX` made the payload of a packet, unless header and payload would exceed `MAXBUF` (41_codec.md R138). -/
def execTxpay (sa : SlotId) (s : State) : Out :=
  command s do
    let p ← s.packet sa
    if headerSize p.lay + s.tx.length > Config.maxBuf then .error .elen
    else return s.setSlot sa (some { p with pay := s.tx })

/-- `PTRACE Pa`: the packet dump, when tracing is on (41_codec.md R139). -/
def execPtrace (sa : SlotId) (s : State) : Out :=
  command s do
    let p ← s.packet sa
    return s.traceAll (if s.traceEn then [dPkt p] else [])

end Sys2Proof.Machine
end

