-- ==== Sys2Proof/Machine/Primitive.lean ====
section
/-! DEFINITION. The meanings of the primitive commands (40_primitives.md part 2). -/

namespace Sys2Proof.Machine

/-- `SWAP16 #v`: the bare byte swapper, into `RES` (40_primitives.md R100). -/
def execSwap16 (v : Word) (s : State) : Out :=
  command s do
    let x ← operand 16 v
    return s.setRes ((swap16 (x.setWidth 16)).setWidth 64)

/-- `N16SET #v`: `set` on the cell `N` (40_primitives.md R101). -/
def execN16set (v : Word) (s : State) : Out :=
  command s do
    let x ← operand 16 v
    return s.setN (N16.ofValue (x.setWidth 16))

/-- `N16GET`: `get` on the cell `N`, into `RES` (40_primitives.md R102). -/
def execN16get (s : State) : Out := command s (.ok (s.setRes (BitVec.ofNat 64 s.n.get)))

/-- `N16LDR #raw`: the cell loaded without conversion (40_primitives.md R103). -/
def execN16ldr (v : Word) (s : State) : Out :=
  command s do
    let x ← operand 16 v
    return s.setN (N16.ofRaw Config.hostOrder (x.setWidth 16))

/-- `N16STR`: the cell read without conversion, into `RES` (40_primitives.md R104). -/
def execN16str (s : State) : Out := command s (.ok (s.setRes ((s.n.raw Config.hostOrder).setWidth 64)))

/-- `N16D`: traces the value of the cell, whatever `CTL.TRACE_EN` is (40_primitives.md R105). -/
def execN16d (s : State) : Out := command s (.ok (s.traceAll [.n16 (BitVec.ofNat 16 s.n.get)]))

/-- `MACEQ Pa, field, cmp`: `Z` says whether a `MAC` field equals the comparand (40_primitives.md R106). -/
def execMaceq (sa : SlotId) (sel : BitVec 4) (cmp : Comparand) (s : State) : Out :=
  command s do
    let p ← s.packet sa
    let r ← fieldOfKind p.lay sel .mac
    let b ← s.macComparand cmp
    return s.setZ (macEq (p.fbytes r) b)

/-- `IPEQ Pa, field, cmp`: `Z` says whether an `IP4` field equals the comparand (40_primitives.md R107). -/
def execIpeq (sa : SlotId) (sel : BitVec 4) (cmp : Comparand) (s : State) : Out :=
  command s do
    let p ← s.packet sa
    let r ← fieldOfKind p.lay sel .ip4
    let b ← s.ipComparand cmp
    return s.setZ (ipEq (p.fbytes r) b)

/-- `FTRACE Pa, field`: traces one header field, whatever `CTL.TRACE_EN` is (40_primitives.md R108). -/
def execFtrace (sa : SlotId) (sel : BitVec 4) (s : State) : Out :=
  command s do
    let p ← s.packet sa
    let r ← fieldOf p.lay sel
    return s.traceAll [dField r.kind (p.fbytes r)]

end Sys2Proof.Machine
end

