-- ==== Sys2Proof/Machine/Contract.lean ====
section
/-! DEFINITION. The ARP response contract and nested dispatch as functions of packet, bytes and configuration
(42_response.md parts 1 and 2). -/

namespace Sys2Proof.Machine

/-- The configuration a response reads (42_response.md part 1). -/
structure Cfg where
  lmac : Mac
  lip : Ip4
  traceEn : Bool
  deriving DecidableEq, Repr

/-- What the ARP response contract returns: the reply, the invocations of the continuation, the trace events. -/
structure Response where
  reply : Option Packet
  ems : List (List Bytes)
  trs : List TraceEvent
  deriving DecidableEq, Repr

/-- What nested dispatch returns. -/
structure Handled where
  ems : List (List Bytes)
  trs : List TraceEvent
  deriving DecidableEq, Repr

/-- The configuration in force, else `ECFG` while either local address is unwritten (42_response.md R165, R166). -/
def State.config (s : State) : Except Cause Cfg := do
  let m ← s.localMac
  let a ← s.localIp
  return ⟨m, a, s.traceEn⟩

/-- The dump of a packet when tracing is on (42_response.md R151, R161). -/
def dumpIf (en : Bool) (p : Packet) : List TraceEvent := if en then [dPkt p] else []

/-! ### The ARP response contract -/

/-- Step 1, the filter: `dst_ip` equals the local network address, no broadcast (42_response.md R150). -/
def arpAccepts (p : Packet) (cfg : Cfg) : Bool := ipEq (p.fbytes Field.arpDstIp) cfg.lip.toBytes

/-- The operation code of an ARP packet (42_response.md R152). -/
def arpOperation (p : Packet) : Option ArpOper := ArpOper.ofCode (BitVec.ofNat 16 (p.fget Field.arpOper))

/-- Step 4, clone and patch: a copy of the request with five fields overwritten, all read from the request
(42_response.md R153). -/
def arpReplyPacket (p : Packet) (cfg : Cfg) : Packet :=
  ((((p.patch Field.arpOper (toBe16 ArpOper.reply.code)).patch Field.arpDstMac (p.fbytes Field.arpSrcMac)).patch
    Field.arpDstIp (p.fbytes Field.arpSrcIp)).patch Field.arpSrcMac cfg.lmac.toBytes).patch Field.arpSrcIp cfg.lip.toBytes

/-- `respond_ARP(p, cfg)`: filter, optional trace, dispatch on the operation code, reply, emission (42_response.md R150 to
R155).  Only a request is answered; a reply and every uninterpreted code are silently ignored. -/
def respondArp (p : Packet) (cfg : Cfg) : Response :=
  if arpAccepts p cfg then
    match arpOperation p with
    | some .request =>
      let r := arpReplyPacket p cfg
      ⟨some r, [[encodePacket r]], dumpIf cfg.traceEn p⟩
    | some .reply => ⟨none, [], dumpIf cfg.traceEn p⟩
    | none => ⟨none, [], dumpIf cfg.traceEn p⟩
  else ⟨none, [], []⟩

/-! ### The tables of nested dispatch (00_scope.md R7; 42_response.md R158 to R162) -/

/-- The tables `handle` takes: `typesel`, `REG` with the rank R162 asks for, `FILTER`, and `WRAP` where a layer has one. -/
structure Tables where
  typeField : Layout → Option FieldRow
  registry : Layout → Nat → Option Layout
  rank : Layout → Nat
  accepts : Layout → Packet → Cfg → Bool
  wrap : Layout → Bytes → Cfg → Option Bytes

/-- `typesel(ETH) = 2`, `typesel(IP4) = 6`; ARP is a leaf. -/
def typeFieldOf : Layout → Option FieldRow
  | .arp => none
  | .eth => some Field.ethEtype
  | .ip4 => some Field.ip4Proto

/-- `REG`, default (42_response.md R159; log entry 7). -/
def registryOf : Layout → Nat → Option Layout
  | .arp, _ => none
  | .eth, t => if t = 0x0806 then some .arp else if t = 0x0800 then some .ip4 else none
  | .ip4, _ => none

/-- The rank of the default registry (42_response.md R162). -/
def rankOf : Layout → Nat
  | .arp => 0
  | .ip4 => 1
  | .eth => 2

/-- `FILTER`, default: the outer layers accept the local address and the broadcast sentinel (42_response.md R158; log entry 7). -/
def acceptsOf : Layout → Packet → Cfg → Bool
  | .arp, p, cfg => arpAccepts p cfg
  | .eth, p, cfg =>
    macEq (p.fbytes Field.ethDst) cfg.lmac.toBytes || macEq (p.fbytes Field.ethDst) bcastMac.toBytes
  | .ip4, p, cfg =>
    ipEq (p.fbytes Field.ip4Dst) cfg.lip.toBytes || ipEq (p.fbytes Field.ip4Dst) bcastIp.toBytes

/-- `WRAP`, default: the received ETH header with `dst := src`, `src := LMAC`; none for IP4 (42_response.md R160; log entry 7). -/
def wrapOf : Layout → Bytes → Cfg → Option Bytes
  | .arp, _, _ => none
  | .eth, h, cfg =>
    some (memWrite (memWrite h Field.ethDst.off (memRead h Field.ethSrc.off Field.ethSrc.size)) Field.ethSrc.off
      cfg.lmac.toBytes)
  | .ip4, _, _ => none

/-- The tables of this hardware: the spec's defaults. -/
def tables : Tables where
  typeField := typeFieldOf
  registry := registryOf
  rank := rankOf
  accepts := acceptsOf
  wrap := wrapOf

/-- The inner layer an outer packet's type field selects (42_response.md R157 (c)). -/
def Tables.inner (T : Tables) (lay : Layout) (p : Packet) : Option Layout :=
  match T.typeField lay with
  | none => none
  | some r => T.registry lay (p.fget r)

/-- Each buffer of each invocation with the layer's header before it (42_response.md R157 (e)). -/
def wrapAll (h : Bytes) (ems : List (List Bytes)) : List (List Bytes) := ems.map fun bufs => bufs.map fun x => h ++ x

/-- `handle(L, b, cfg)`, nested at most `depth` layers below `L` (42_response.md R157, R161, R162). -/
def handle (T : Tables) : Nat → Layout → Bytes → Cfg → Except Fault Handled
  | 0, lay, _, _ => .error (.registryNotRanked lay)
  | depth + 1, lay, b, cfg =>
    match decodePacket lay b with
    | none => .ok ⟨[], []⟩
    | some p =>
      if lay = .arp then .ok ⟨(respondArp p cfg).ems, (respondArp p cfg).trs⟩
      else if T.accepts lay p cfg then
        match T.inner lay p with
        | none => .ok ⟨[], dumpIf cfg.traceEn p⟩
        | some lay' =>
          match handle T depth lay' p.pay cfg with
          | .error f => .error f
          | .ok inner =>
            match T.wrap lay p.hdr cfg with
            | none => .error (.noWrapTable lay)
            | some h => .ok ⟨wrapAll h inner.ems, dumpIf cfg.traceEn p ++ inner.trs⟩
      else .ok ⟨[], []⟩

/-- `handle` with this hardware's tables; the rank of the layer bounds the nesting (42_response.md R162). -/
def dispatchResult (lay : Layout) (b : Bytes) (cfg : Cfg) : Except Fault Handled :=
  handle tables (tables.rank lay + 1) lay b cfg

/-- Is some buffer longer than `MAXBUF`? (42_response.md R166) -/
def tooLong (ems : List (List Bytes)) : Bool := ems.any fun bufs => bufs.any fun b => decide (Config.maxBuf < b.length)

end Sys2Proof.Machine
end

