-- ==== Sys2Proof/Machine/Response.lean ====
section
/-! DEFINITION. The meanings of the response commands (42_response.md part 3), and of the two arp_oper rows of the table. -/

namespace Sys2Proof.Machine

/-- What `RESPOND` writes once its fault conditions are past: traces, emissions, the reply slot when there is a reply, and `E`
(42_response.md R165). -/
def State.applyResponse (s : State) (sb : SlotId) (r : Response) : State :=
  let t := (s.traceAll r.trs).emitAll r.ems
  match r.reply with
  | some q => (t.setSlot sb (some q)).setE true
  | none => t.setE false

/-- `RESPOND Pa, Pb`: the ARP response contract on a decoded packet; faults `ESLOT`, `ELAY`, `ECFG` in that order
(42_response.md R165). -/
def execRespond (sa sb : SlotId) (s : State) : Out :=
  command s do
    let p ← s.packet sa
    if p.lay ≠ .arp then .error .elay
    else do
      let cfg ← s.config
      return s.applyResponse sb (respondArp p cfg)

/-- What `DISPATCH` writes once its fault conditions are past (42_response.md R166). -/
def State.applyDispatch (s : State) (h : Handled) : State :=
  ((s.traceAll h.trs).emitAll h.ems).setE (!h.ems.isEmpty)

/-- `DISPATCH lay`: the whole receive path on `RX`; faults `ECFG`, then `ELEN`.  It stops only where `handle` is stuck, which
this hardware's tables rule out (42_response.md R166, 93_implementation_defined.md U7). -/
def execDispatch (lay : Layout) (s : State) : Out :=
  if s.st.f then .next s
  else
    match s.config with
    | .error c => .next (s.takeFault c)
    | .ok cfg =>
      match dispatchResult lay s.rx cfg with
      | .error f => .fault f
      | .ok h => if tooLong h.ems then .next (s.takeFault .elen) else .next (s.applyDispatch h)

/-- `EMIT`: the continuation invoked once, on the one-element list of a copy of `TX` (42_response.md R167). -/
def execEmit (s : State) : Out := command s (.ok ((s.emitAll [[s.tx]]).setE true))

/-- The row `ARP_REQUEST`: operation code 1 of an ARP packet, no command (30_encoding.md R79).  What the code makes the unit do
stands in `respondArp` (42_response.md R152). -/
def execArpRequest (_ : State) : Out := .refused (.notACommand "ARP_REQUEST")

/-- The row `ARP_REPLY`: operation code 2 of an ARP packet, no command (30_encoding.md R79).  `respondArp` ignores it
(42_response.md R152). -/
def execArpReply (_ : State) : Out := .refused (.notACommand "ARP_REPLY")

end Sys2Proof.Machine
end

