-- ==== Sys2Proof/Machine/System.lean ====
section
/-! DEFINITION. The meanings of the system commands (43_system.md part 2). -/

namespace Sys2Proof.Machine

/-- `NOP`: no state changes; accepted while halted (43_system.md R181). -/
def execNop (s : State) : Out := .next s

/-- The word `CSRR` reads, or `ECFG` for a local address that holds no value (43_system.md R182). -/
def csrValue (csr : Csr) (s : State) : Except Cause Word :=
  match csr with
  | .ctl => .ok (ctlWord s)
  | .st => .ok (stWord s)
  | .fcause => .ok ((fcauseCode s).setWidth 64)
  | .lmac => do
    let m ← s.localMac
    return m.toBits.setWidth 64
  | .lip => do
    let a ← s.localIp
    return a.toBits.setWidth 64
  | .rxlen => .ok (BitVec.ofNat 64 s.rx.length)
  | .txlen => .ok (BitVec.ofNat 64 s.tx.length)

/-- `CSRR csr`: accepted while halted, and then a read that would fault has no effect (43_system.md R182). -/
def execCsrr (csr : Csr) (s : State) : Out :=
  finish s do
    let v ← csrValue csr s
    return s.setRes v

/-- `CSRW csr, #v`: `CTL` takes 1 bit, `LMAC` 48, `LIP` 32; a read-only register faults `ECMD` (43_system.md R183). -/
def execCsrw (csr : Csr) (v : Word) (s : State) : Out :=
  command s <|
    match csr with
    | .ctl => do
      let x ← operand 1 v
      return s.setTraceEn (x.getLsbD 0)
    | .lmac => do
      let x ← operand 48 v
      return s.setLmac (Mac.ofBits (x.setWidth 48))
    | .lip => do
      let x ← operand 32 v
      return s.setLip (Ip4.ofBits (x.setWidth 32))
    | .st | .fcause | .rxlen | .txlen => .error .ecmd

end Sys2Proof.Machine
end

