-- ==== Sys2Proof/Machine/Dispatch.lean ====
section
/-! DEFINITION. The meaning of each instruction, one arm per constructor of Instr. -/

namespace Sys2Proof.Machine

def exec (i : Instr) (s : State) : Host.Outcome State Fault Refusal :=
  match i with
  | .nop => Sys2Proof.Machine.execNop s
  | .csrr csr => Sys2Proof.Machine.execCsrr csr s
  | .csrw csr v => Sys2Proof.Machine.execCsrw csr v s
  | .swap16 v => Sys2Proof.Machine.execSwap16 v s
  | .n16set v => Sys2Proof.Machine.execN16set v s
  | .n16get => Sys2Proof.Machine.execN16get s
  | .n16ldr v => Sys2Proof.Machine.execN16ldr v s
  | .n16str => Sys2Proof.Machine.execN16str s
  | .n16d => Sys2Proof.Machine.execN16d s
  | .maceq sa sel cmp => Sys2Proof.Machine.execMaceq sa sel cmp s
  | .ipeq sa sel cmp => Sys2Proof.Machine.execIpeq sa sel cmp s
  | .ftrace sa sel => Sys2Proof.Machine.execFtrace sa sel s
  | .decode sa lay => Sys2Proof.Machine.execDecode sa lay s
  | .encode sa => Sys2Proof.Machine.execEncode sa s
  | .fget sa sel => Sys2Proof.Machine.execFget sa sel s
  | .fset sa sel v => Sys2Proof.Machine.execFset sa sel v s
  | .paylen sa => Sys2Proof.Machine.execPaylen sa s
  | .pcopy sa sb => Sys2Proof.Machine.execPcopy sa sb s
  | .pclr sa => Sys2Proof.Machine.execPclr sa s
  | .payrx sa => Sys2Proof.Machine.execPayrx sa s
  | .txpay sa => Sys2Proof.Machine.execTxpay sa s
  | .ptrace sa => Sys2Proof.Machine.execPtrace sa s
  | .respond sa sb => Sys2Proof.Machine.execRespond sa sb s
  | .dispatch lay => Sys2Proof.Machine.execDispatch lay s
  | .emit => Sys2Proof.Machine.execEmit s
  | .arpRequest => Sys2Proof.Machine.execArpRequest s
  | .arpReply => Sys2Proof.Machine.execArpReply s

end Sys2Proof.Machine
end

