-- ==== Sys2Proof/Machine/Step.lean ====
section
/-! DEFINITION. One step: the host's next move, carried out to completion (10_state.md R10, R19; 43_system.md R180 to R186). -/

namespace Sys2Proof.Machine

/-- One move of the host.  A command is decoded and executed, or faults `ECMD` (43_system.md R180); load, observe and reset are
moves between commands; with no move left the unit waits. -/
def step (s : State) : Host.Outcome State Fault Refusal :=
  match s.fetch with
  | none => hostIdle s
  | some (.load b, t) => hostLoad b t
  | some (.observe, t) => hostObserve t
  | some (.reset, t) => hostReset t
  | some (.command cw wdata, t) =>
    match decode cw wdata with
    | .ok i => exec i t
    | .error _ => illegalWord t

/-- The state in which the host's next move presents the command whose bits are `w`: the command word in bits 15 to 0, `wdata`
above it, every bit above `nbits` zero (log entry 1). -/
def State.withFetchWord (s : State) (nbits w : Nat) : State :=
  let v := w % 2 ^ nbits
  { s with moves := .command (BitVec.ofNat 16 v) (BitVec.ofNat 64 (v / 65536)) :: s.moves }

end Sys2Proof.Machine
end

