-- ==== Sys2Proof/Safety.lean ====
section
/-! DEFINITION. What a safe run is: the launch premises, when a run went wrong, and the invariant of the machine. -/

namespace Sys2Proof.Machine

/-! ### Launch premises (70_reset_and_hazards.md R238) -/

/-- `NoFault`: the unit is not halted. -/
abbrev State.NoFault (s : State) : Prop := s.st.f = false

/-- `Configured(m, a)`: both local addresses have been written. -/
abbrev State.Configured (s : State) (m : Mac) (a : Ip4) : Prop := s.lmac = some m ∧ s.lip = some a

/-- `TraceOff`. -/
abbrev State.TraceOff (s : State) : Prop := s.traceEn = false

/-- `TraceOn`. -/
abbrev State.TraceOn (s : State) : Prop := s.traceEn = true

/-- `RxIs(b)`. -/
abbrev State.RxIs (s : State) (b : Bytes) : Prop := s.rx = b ∧ b.length ≤ Config.maxBuf

/-- `Clean`: the unit as it is straight after reset, whatever the host has left to do. -/
abbrev State.Clean (s : State) : Prop := s = { State.reset with moves := s.moves, pc := s.pc }

/-- The run that ends in `s` went wrong: a fault is recorded (70_reset_and_hazards.md R237). -/
abbrev State.WentWrong (s : State) : Prop := s.st.f = true

/-! ### Fault entry (60_exceptions.md R203) -/

/-- The state after the entry of fault `c`: `ST.F` and `FCAUSE` written, nothing else. -/
def State.faulted (s : State) (c : Cause) : State :=
  { s with st := { s.st with f := true }, fcause := some c }

/-! ### The invariant -/

/-- A trace event carries as many bytes as 40_primitives.md R97 gives it. -/
def TraceEvent.wf : TraceEvent → Bool
  | .u8 _ => true
  | .n16 _ => true
  | .mac b => b.length == 6
  | .ip4 b => b.length == 4
  | .pkt lay hdr _ => hdr.length == headerSize lay

/-- The invariant every step keeps: the memory is in canonical form (10_state.md R12, R14, R15), a cause is recorded exactly when
the unit is halted (10_state.md R23), no emitted buffer is longer than `MAXBUF` (00_scope.md R3), and every trace event is well
formed. -/
abbrev State.Inv (s : State) : Prop :=
  Memory.wf s = true ∧ s.fcause.isSome = s.st.f ∧ tooLong s.emits = false ∧ s.trace.all TraceEvent.wf = true

/-! ### Which command writes what -/

/-- The commands that write `RES` (10_state.md R17). -/
def writesRes : Instr → Bool
  | .csrr _ | .swap16 _ | .n16get | .n16str | .fget _ _ | .paylen _ => true
  | .nop | .csrw _ _ | .n16set _ | .n16ldr _ | .n16d | .maceq _ _ _ | .ipeq _ _ _ | .ftrace _ _ => false
  | .decode _ _ | .encode _ | .fset _ _ _ | .pcopy _ _ | .pclr _ | .payrx _ | .txpay _ | .ptrace _ => false
  | .respond _ _ | .dispatch _ | .emit | .arpRequest | .arpReply => false

/-- The commands that write slot `j` (the table after 10_state.md R13). -/
def writesSlot (j : SlotId) : Instr → Bool
  | .decode sa _ | .fset sa _ _ | .pcopy sa _ | .pclr sa | .txpay sa => decide (sa = j)
  | .respond _ sb => decide (sb = j)
  | .nop | .csrr _ | .csrw _ _ | .swap16 _ | .n16set _ | .n16get | .n16ldr _ | .n16str | .n16d => false
  | .maceq _ _ _ | .ipeq _ _ _ | .ftrace _ _ | .encode _ | .fget _ _ | .paylen _ | .payrx _ | .ptrace _ => false
  | .dispatch _ | .emit | .arpRequest | .arpReply => false

/-- The commands that write the flag `E` (10_state.md R20). -/
def writesE : Instr → Bool
  | .respond _ _ | .dispatch _ | .emit => true
  | .nop | .csrr _ | .csrw _ _ | .swap16 _ | .n16set _ | .n16get | .n16ldr _ | .n16str | .n16d => false
  | .maceq _ _ _ | .ipeq _ _ _ | .ftrace _ _ | .decode _ _ | .encode _ | .fget _ _ | .fset _ _ _ => false
  | .paylen _ | .pcopy _ _ | .pclr _ | .payrx _ | .txpay _ | .ptrace _ | .arpRequest | .arpReply => false

/-- The commands that may append to `TRACE`: the two single-value traces always, the packet dumps when tracing is on
(10_state.md R22, R28; 40_primitives.md R105, R108). -/
def writesTrace : Instr → Bool
  | .n16d | .ftrace _ _ | .ptrace _ | .respond _ _ | .dispatch _ => true
  | .nop | .csrr _ | .csrw _ _ | .swap16 _ | .n16set _ | .n16get | .n16ldr _ | .n16str => false
  | .maceq _ _ _ | .ipeq _ _ _ | .decode _ _ | .encode _ | .fget _ _ | .fset _ _ _ => false
  | .paylen _ | .pcopy _ _ | .pclr _ | .payrx _ | .txpay _ | .emit | .arpRequest | .arpReply => false

/-- The commands that store into no byte-addressed space (20_memory.md R40). -/
def storesNothing : Instr → Bool
  | .nop | .csrr _ | .csrw _ _ | .swap16 _ | .n16get | .n16str | .n16d | .maceq _ _ _ | .ipeq _ _ _ => true
  | .ftrace _ _ | .fget _ _ | .paylen _ | .ptrace _ | .dispatch _ | .emit => true
  | .n16set _ | .n16ldr _ | .decode _ _ | .encode _ | .fset _ _ _ | .pcopy _ _ | .pclr _ | .payrx _ => false
  | .txpay _ | .respond _ _ | .arpRequest | .arpReply => false

/-! ### Comparing two runs -/

/-- The two states differ at most in `CTL.TRACE_EN` and in `TRACE` (10_state.md R28). -/
abbrev SameButTrace (s t : State) : Prop := t = { s with traceEn := t.traceEn, trace := t.trace }

/-- Every byte of every space reads the same in both states. -/
def SameMemory (s t : State) : Prop := ∀ (sp : Space) (off : Nat), t.byteAt sp off = s.byteAt sp off

end Sys2Proof.Machine
end

