-- ==== Sys2Proof/Certificates/Slice0/Obligations.lean ====
section
/-! DEFINITION. The statements for the provers, each formalising the rules of spec/ its docstring names. -/

open Sys2Proof Sys2Proof.Machine

/-- State.reset has all four slots None, RX and TX empty, N = 00 00, RES = 0, TRACE_EN, MACV and IPV 0, no value in LMAC and
LIP, ST and FCAUSE 0, EMITS and TRACE empty (R30's row for these two lets a model keep them instead: the model's choice, log
entry 8). (R30, R230) -/
def Obligations.ResetLeavesTheSpecValues : Prop :=
  (∀ i, State.reset.slot i = none) ∧ State.reset.rx = [] ∧ State.reset.tx = [] ∧ State.reset.n = ⟨0, 0⟩ ∧
    State.reset.res = 0 ∧ State.reset.traceEn = false ∧ State.reset.macv = false ∧ State.reset.ipv = false ∧
    State.reset.lmac = none ∧ State.reset.lip = none ∧ State.reset.st = ⟨false, false, false, false⟩ ∧
    fcauseCode State.reset = 0 ∧ State.reset.emits = [] ∧ State.reset.trace = []

/-- When the host's next move is reset, the step answers the reset state, with only the host's own list and index advanced.
That EMITS and TRACE are emptied where R230 and R30 let a model keep them is the model's choice (log entry 8), and so is the
host's list and index standing in the state (log entry 1). (R186, R230, R19) -/
def Obligations.ResetMoveRestoresTheResetState : Prop :=
  ∀ (s : State) (rest : List Move), s.moves = .reset :: rest →
    step s = .next { State.reset with moves := rest, pc := s.pc + 1 }

/-- If a step answers t and the host's move is not reset, then: if the unit was halted it stays halted with the same FCAUSE;
MACV and IPV, once 1, stay 1. (R230, R205, R20, R22) -/
def Obligations.OnlyResetClearsHaltAndConfiguration : Prop :=
  ∀ (s t : State), step s = .next t → (∀ rest, s.moves ≠ .reset :: rest) →
    (s.st.f = true → t.st.f = true ∧ t.fcause = s.fcause) ∧
    (s.macv = true → t.macv = true) ∧ (s.ipv = true → t.ipv = true)

/-- State.reset meets Inv: memory in canonical form, FCAUSE recorded exactly when halted, no emitted buffer above MAXBUF,
trace events well formed. (R12, R14, R15, R23, R30, R97) -/
def Obligations.InvariantHoldsAtReset : Prop :=
  State.reset.Inv

/-- From every state that meets Inv, reachable or not, a step that answers a next state answers one that meets Inv: slot
headers keep their layout's length and slots, RX, TX and emitted buffers stay within MAXBUF, FCAUSE is recorded exactly when
the unit is halted, trace events stay well formed. (R12, R14, R15, R23, R97, R203) -/
def Obligations.StepKeepsTheInvariant : Prop :=
  ∀ (s t : State), s.Inv → step s = .next t → t.Inv

/-- If the host's next move presents (cw, wdata) and cw decodes to i, then step s is exec i on s with that move taken from the
list and the index advanced by 1. (R180, R19, R10) -/
def Obligations.StepRunsTheDecodedCommand : Prop :=
  ∀ (s : State) (cw : Half) (wdata : Word) (rest : List Move) (i : Instr),
    s.moves = .command cw wdata :: rest → decode cw wdata = .ok i →
    step s = exec i { s with moves := rest, pc := s.pc + 1 }

/-- If the host presents a word that does not decode, the step enters fault ECMD and changes nothing else of the unit; while
halted the step has no effect on the unit and FCAUSE stays. (R180, R75, R203) -/
def Obligations.StepFaultsOnIllegalWords : Prop :=
  ∀ (s : State) (cw : Half) (wdata : Word) (rest : List Move) (e : Illegal),
    s.moves = .command cw wdata :: rest → decode cw wdata = .error e →
    (s.NoFault → step s = .next { s with
      moves := rest, pc := s.pc + 1, st := { s.st with f := true }, fcause := some .ecmd }) ∧
    (s.st.f = true → step s = .next { s with moves := rest, pc := s.pc + 1 })

/-- When the host's next move is load b: if len(b) <= MAXBUF the step answers the state with RX = b and nothing else of the
unit changed, halted or not; otherwise the model refuses the move by name. R184 says only that the host has no such move: the
refusal is the model's choice (log entry 13; 93_implementation_defined.md V12), and so is the host's list standing in the
state (log entry 1). (R184, 93_implementation_defined.md V12) -/
def Obligations.LoadReplacesTheReceiveBuffer : Prop :=
  ∀ (s : State) (b : Bytes) (rest : List Move), s.moves = .load b :: rest →
    (b.length ≤ Config.maxBuf → step s = .next { s with rx := b, moves := rest, pc := s.pc + 1 }) ∧
    (Config.maxBuf < b.length → step s = .refused .loadTooLong)

/-- If the host's list is m followed by rest and the step answers t, then t's list is rest and its index is one more; when the
move is observe the step answers the state with only the list and the index advanced, halted or not; with an empty list the
step answers the state unchanged (the list in the state is the model's choice, log entry 1). (R19, R185, R47, R214, R237) -/
def Obligations.EveryMoveAdvancesTheHostIndex : Prop :=
  (∀ (s t : State) (m : Move) (rest : List Move), s.moves = m :: rest → step s = .next t →
    t.moves = rest ∧ t.pc = s.pc + 1) ∧
  (∀ (s : State) (rest : List Move), s.moves = .observe :: rest →
    step s = .next { s with moves := rest, pc := s.pc + 1 }) ∧
  (∀ (s : State), s.moves = [] → step s = .next s)

/-- For every well-formed instruction, all operands at every value the encoding admits, decode of its command word and operand
is that instruction. (R70, R71, R72, R73, R74, R68) -/
def Obligations.DecodeOfEncode : Prop :=
  ∀ (i : Instr), i.wf = true → decode (encode i).1 (encode i).2 = .ok i

/-- If (cw, wdata) decodes to i, then i is well formed, its encoding has the word cw, and cw with the encoding's own operand
decodes to i too: no two words mean one instruction and every bit of the word is accounted for. (R71, R72, R75) -/
def Obligations.EncodeOfDecode : Prop :=
  ∀ (cw : Half) (wdata : Word) (i : Instr), decode cw wdata = .ok i →
    i.wf = true ∧ (encode i).1 = cw ∧ decode cw (encode i).2 = .ok i

/-- decode refuses cw exactly when no row of the opcode map covers it, or its op is DECODE or DISPATCH and its layout id is 3,
or its op is CSRR or CSRW and its CSR number is 7 to 15, or its op is CSRW and its CSR number is 1, 2, 5 or 6. (R75, R68, R74)
-/
def Obligations.IllegalWordsAreThoseOfTheRule : Prop :=
  ∀ (cw : Half) (wdata : Word), (∃ e, decode cw wdata = .error e) ↔
    (∀ r ∈ opRows, cw &&& r.mask ≠ r.pattern) ∨
    ((opBits cw = 0x20 ∨ opBits cw = 0x31) ∧ layBits cw = 3) ∨
    ((opBits cw = 0x01 ∨ opBits cw = 0x02) ∧ 7 ≤ (selBits cw).toNat) ∨
    (opBits cw = 0x02 ∧ (selBits cw = 1 ∨ selBits cw = 2 ∨ selBits cw = 5 ∨ selBits cw = 6))

/-- Words of the decoding table of 95_test_vectors.md section 2.5, one or more per family, decode as that table says. (R72,
R77, 95_test_vectors.md section 2.5) -/
def Obligations.WrittenOutWordsDecode : Prop :=
  decode 0x0000 0 = .ok .nop ∧ decode 0x6001 0 = .ok (.csrr .txlen) ∧ decode 0x3002 1 = .ok (.csrw .lmac 1) ∧
    decode 0x0013 1 = .ok (.n16ldr 1) ∧ decode 0x0C16 1 = .ok (.maceq .p0 0 .zero) ∧
    decode 0x2320 0 = .ok (.decode .p3 .ip4) ∧ decode 0xF022 0 = .ok (.fget .p0 15) ∧
    decode 0x0625 0 = .ok (.pcopy .p2 .p1) ∧ decode 0x0430 0 = .ok (.respond .p0 .p1) ∧
    decode 0x1031 0 = .ok (.dispatch .eth)

/-- For every word, of any two different rows of the opcode map at most one covers it. (R72) -/
def Obligations.OpcodeRowsAreDisjoint : Prop :=
  ∀ (cw : Half), opRows.Pairwise fun a b => a.covers cw = true → b.covers cw = false

/-- exec of NOP answers the state itself, halted or not; cw = 0x0000 decodes to NOP whatever wdata is; a word with op = 0x00
and any other bit set is illegal. (R181) -/
def Obligations.NopChangesNothing : Prop :=
  (∀ s : State, exec .nop s = .next s) ∧ (∀ wdata : Word, decode 0x0000 wdata = .ok .nop) ∧
  (∀ (cw : Half) (wdata : Word), opBits cw = 0 → cw ≠ 0 → ∃ e, decode cw wdata = .error e)

/-- For each of the seven registers, exec of CSRR answers the state with RES = the register's value and nothing else changed,
halted or not; LMAC and LIP without a value fault ECFG, and have no effect while halted; words with CSR number 7 to 15 are
illegal. (R182) -/
def Obligations.CsrrReadsTheRegister : Prop :=
  ∀ (s : State),
    (∀ (csr : Csr) (wdata : Word), decode (csr.bits ++ 0x001#12) wdata = .ok (.csrr csr)) ∧
    (∀ (k : BitVec 4) (wdata : Word), 7 ≤ k.toNat → ∃ e, decode (k ++ 0x001#12) wdata = .error e) ∧
    exec (.csrr .ctl) s = .next { s with
      res := BitVec.ofNat 64 (4 * s.ipv.toNat + 2 * s.macv.toNat + s.traceEn.toNat) } ∧
    exec (.csrr .st) s = .next { s with
      res := BitVec.ofNat 64 (8 * s.st.f.toNat + 4 * s.st.e.toNat + 2 * s.st.z.toNat + s.st.v.toNat) } ∧
    exec (.csrr .fcause) s = .next { s with res := BitVec.ofNat 64 (fcauseCode s).toNat } ∧
    (∀ m, s.lmac = some m → exec (.csrr .lmac) s = .next { s with res := BitVec.ofNat 64 (pack m.toBytes) }) ∧
    (∀ a, s.lip = some a → exec (.csrr .lip) s = .next { s with res := BitVec.ofNat 64 (pack a.toBytes) }) ∧
    (s.lmac = none → exec (.csrr .lmac) s = .next (if s.st.f then s else s.faulted .ecfg)) ∧
    (s.lip = none → exec (.csrr .lip) s = .next (if s.st.f then s else s.faulted .ecfg)) ∧
    exec (.csrr .rxlen) s = .next { s with res := BitVec.ofNat 64 s.rx.length } ∧
    exec (.csrr .txlen) s = .next { s with res := BitVec.ofNat 64 s.tx.length }

/-- While not halted: CSRW CTL, LMAC and LIP with an operand of at most 1, 48 and 32 bits answers the state with that register
written (and MACV or IPV set) and nothing else changed; a wider operand faults EVAL; the read-only numbers 1, 2, 5, 6 and the
reserved numbers 7 to 15 are illegal words, and the instruction on a read-only register faults ECMD. (R183) -/
def Obligations.CsrwWritesTheRegister : Prop :=
  ∀ (s : State) (v : Word), s.NoFault →
    (∀ csr : Csr, csr.writable = true → decode (csr.bits ++ 0x002#12) v = .ok (.csrw csr v)) ∧
    (∀ k : BitVec 4, (k = 1 ∨ k = 2 ∨ k = 5 ∨ k = 6 ∨ 7 ≤ k.toNat) → ∃ e, decode (k ++ 0x002#12) v = .error e) ∧
    (v.toNat < 2 → exec (.csrw .ctl v) s = .next { s with traceEn := decide (v = 1) }) ∧
    (2 ≤ v.toNat → exec (.csrw .ctl v) s = .next (s.faulted .eval)) ∧
    (v.toNat < 2 ^ 48 → ∃ m : Mac, m.toBytes = unpack 6 v.toNat ∧
      exec (.csrw .lmac v) s = .next { s with lmac := some m }) ∧
    (2 ^ 48 ≤ v.toNat → exec (.csrw .lmac v) s = .next (s.faulted .eval)) ∧
    (v.toNat < 2 ^ 32 → ∃ a : Ip4, a.toBytes = unpack 4 v.toNat ∧
      exec (.csrw .lip v) s = .next { s with lip := some a }) ∧
    (2 ^ 32 ≤ v.toNat → exec (.csrw .lip v) s = .next (s.faulted .eval)) ∧
    (∀ csr : Csr, csr.writable = false → exec (.csrw csr v) s = .next (s.faulted .ecmd))

/-- While not halted: for v below 2^16, exec of SWAP16 answers the state with RES = (low byte) * 256 + (high byte) and nothing
else changed; for v of 2^16 or more it faults EVAL. (R100) -/
def Obligations.Swap16ExchangesTheBytes : Prop :=
  ∀ (s : State) (v : Word), decode 0x0010 v = .ok (.swap16 v) ∧
    (s.NoFault → v.toNat < 2 ^ 16 →
      exec (.swap16 v) s = .next { s with res := BitVec.ofNat 64 (v.toNat % 256 * 256 + v.toNat / 256) }) ∧
    (s.NoFault → 2 ^ 16 ≤ v.toNat → exec (.swap16 v) s = .next (s.faulted .eval))

/-- While not halted, for v below 2^16: N16SET answers the state with N = [high byte, low byte], N16LDR (HOST_ORDER = little)
with N = [low byte, high byte], and nothing else changed; for v of 2^16 or more both fault EVAL. (R101, R103) -/
def Obligations.N16CellIsLoaded : Prop :=
  ∀ (s : State) (v : Word), decode 0x0011 v = .ok (.n16set v) ∧ decode 0x0013 v = .ok (.n16ldr v) ∧
    (s.NoFault → v.toNat < 2 ^ 16 →
      exec (.n16set v) s =
        .next { s with n := ⟨BitVec.ofNat 8 (v.toNat / 256), BitVec.ofNat 8 (v.toNat % 256)⟩ } ∧
      exec (.n16ldr v) s =
        .next { s with n := ⟨BitVec.ofNat 8 (v.toNat % 256), BitVec.ofNat 8 (v.toNat / 256)⟩ }) ∧
    (s.NoFault → 2 ^ 16 ≤ v.toNat →
      exec (.n16set v) s = .next (s.faulted .eval) ∧ exec (.n16ldr v) s = .next (s.faulted .eval))

/-- While not halted: N16GET answers the state with RES = N[0] * 256 + N[1], N16STR (HOST_ORDER = little) with RES = N[0] +
N[1] * 256, and nothing else changed. (R102, R104) -/
def Obligations.N16CellIsRead : Prop :=
  ∀ (s : State) (wdata : Word), decode 0x0012 wdata = .ok .n16get ∧ decode 0x0014 wdata = .ok .n16str ∧
    (s.NoFault →
      exec .n16get s = .next { s with res := BitVec.ofNat 64 (s.n.b0.toNat * 256 + s.n.b1.toNat) } ∧
      exec .n16str s = .next { s with res := BitVec.ofNat 64 (s.n.b0.toNat + s.n.b1.toNat * 256) })

/-- While not halted, exec of N16D answers the state with the one event TrN16(N[0] * 256 + N[1]) appended to TRACE and nothing
else changed. (R105) -/
def Obligations.N16dTracesTheValue : Prop :=
  ∀ (s : State) (wdata : Word), decode 0x0015 wdata = .ok .n16d ∧
    (s.NoFault → exec .n16d s =
      .next { s with trace := s.trace ++ [.n16 (BitVec.ofNat 16 (s.n.b0.toNat * 256 + s.n.b1.toNat))] })

/-- While not halted: an empty slot faults ESLOT; a selector with no row or a field of another kind faults ESEL; with
comparand WDATA an operand of more than 48 bits faults EVAL; with LOCAL an unwritten LMAC faults ECFG; otherwise the command
answers the state with Z = 1 exactly when the field's 6 bytes equal the comparand's (the operand unpacked, the local address,
all bytes FF, all bytes 00) and nothing else changed. (R106) -/
def Obligations.MaceqComparesALinkAddress : Prop :=
  ∀ (s : State) (sa : SlotId) (sel : BitVec 4) (cmp : Comparand),
    (∀ wdata : Word, decode (sel ++ cmp.bits ++ sa.bits ++ 0x16#8) wdata =
      .ok (.maceq sa sel (Comparand.ofBits cmp.bits wdata))) ∧
    (s.NoFault → s.slot sa = none → exec (.maceq sa sel cmp) s = .next (s.faulted .eslot)) ∧
    (∀ p, s.NoFault → s.slot sa = some p →
      ((∀ r, fieldAt p.lay sel = some r → r.kind ≠ .mac) → exec (.maceq sa sel cmp) s = .next (s.faulted .esel)) ∧
      (∀ r, fieldAt p.lay sel = some r → r.kind = .mac → exec (.maceq sa sel cmp) s = .next (
        match cmp with
        | .wdata v =>
          if v.toNat < 2 ^ 48 then
            { s with st := { s.st with z := decide (memRead p.hdr r.off 6 = unpack 6 v.toNat) } }
          else s.faulted .eval
        | .localAddr =>
          match s.lmac with
          | none => s.faulted .ecfg
          | some a => { s with st := { s.st with z := decide (memRead p.hdr r.off 6 = a.toBytes) } }
        | .bcast => { s with st := { s.st with
            z := decide (memRead p.hdr r.off 6 = [0xFF, 0xFF, 0xFF, 0xFF, 0xFF, 0xFF]) } }
        | .zero => { s with st := { s.st with z := decide (memRead p.hdr r.off 6 = List.replicate 6 0) } })))

/-- While not halted: an empty slot faults ESLOT; a selector with no row or a field of another kind faults ESEL; with
comparand WDATA an operand of more than 32 bits faults EVAL; with LOCAL an unwritten LIP faults ECFG; otherwise the command
answers the state with Z = 1 exactly when the field's 4 bytes equal the comparand's (the operand unpacked, the local address,
BCAST_IP, all bytes 00) and nothing else changed. (R107) -/
def Obligations.IpeqComparesANetworkAddress : Prop :=
  ∀ (s : State) (sa : SlotId) (sel : BitVec 4) (cmp : Comparand),
    (∀ wdata : Word, decode (sel ++ cmp.bits ++ sa.bits ++ 0x17#8) wdata =
      .ok (.ipeq sa sel (Comparand.ofBits cmp.bits wdata))) ∧
    (s.NoFault → s.slot sa = none → exec (.ipeq sa sel cmp) s = .next (s.faulted .eslot)) ∧
    (∀ p, s.NoFault → s.slot sa = some p →
      ((∀ r, fieldAt p.lay sel = some r → r.kind ≠ .ip4) → exec (.ipeq sa sel cmp) s = .next (s.faulted .esel)) ∧
      (∀ r, fieldAt p.lay sel = some r → r.kind = .ip4 → exec (.ipeq sa sel cmp) s = .next (
        match cmp with
        | .wdata v =>
          if v.toNat < 2 ^ 32 then
            { s with st := { s.st with z := decide (memRead p.hdr r.off 4 = unpack 4 v.toNat) } }
          else s.faulted .eval
        | .localAddr =>
          match s.lip with
          | none => s.faulted .ecfg
          | some a => { s with st := { s.st with z := decide (memRead p.hdr r.off 4 = a.toBytes) } }
        | .bcast => { s with st := { s.st with
            z := decide (memRead p.hdr r.off 4 = bcastIp.toBytes) } }
        | .zero => { s with st := { s.st with z := decide (memRead p.hdr r.off 4 = List.replicate 4 0) } })))

/-- While not halted: an empty slot faults ESLOT, a selector with no row faults ESEL; otherwise exec of FTRACE answers the
state with d_field of the field's kind and bytes appended to TRACE and nothing else changed. (R108) -/
def Obligations.FtraceTracesTheField : Prop :=
  ∀ (s : State) (sa : SlotId) (sel : BitVec 4),
    (∀ wdata : Word, decode (sel ++ 0#2 ++ sa.bits ++ 0x18#8) wdata = .ok (.ftrace sa sel)) ∧
    (s.NoFault → s.slot sa = none → exec (.ftrace sa sel) s = .next (s.faulted .eslot)) ∧
    (∀ p, s.NoFault → s.slot sa = some p →
      (fieldAt p.lay sel = none → exec (.ftrace sa sel) s = .next (s.faulted .esel)) ∧
      (∀ r, fieldAt p.lay sel = some r → exec (.ftrace sa sel) s =
        .next { s with trace := s.trace ++ [dField r.kind (memRead p.hdr r.off r.size)] }))

/-- While not halted: if RX is shorter than the layout's header, exec of DECODE answers the state with the slot None and V =
0; otherwise with the slot holding the layout, the first N bytes of RX as header and the rest as payload, and V = 1; nothing
else changes. Layout id 3 is illegal. (R130) -/
def Obligations.DecodeFillsTheSlot : Prop :=
  ∀ (s : State) (sa : SlotId) (lay : Layout) (wdata : Word),
    decode (lay.bits.setWidth 4 ++ 0#2 ++ sa.bits ++ 0x20#8) wdata = .ok (.decode sa lay) ∧
    (∃ e, decode (3#4 ++ 0#2 ++ sa.bits ++ 0x20#8) wdata = .error e) ∧
    (s.NoFault → s.rx.length < headerSize lay → exec (.decode sa lay) s =
      .next { s with slots := s.slots.set sa none, st := { s.st with v := false } }) ∧
    (s.NoFault → headerSize lay ≤ s.rx.length → exec (.decode sa lay) s =
      .next { s with
        slots := s.slots.set sa (some ⟨lay, s.rx.take (headerSize lay), s.rx.drop (headerSize lay)⟩),
        st := { s.st with v := true } })

/-- While not halted: an empty slot faults ESLOT; otherwise exec of ENCODE answers the state with TX = header ++ payload and
nothing else changed (nothing is emitted). (R131) -/
def Obligations.EncodeStagesThePacket : Prop :=
  ∀ (s : State) (sa : SlotId),
    (∀ wdata : Word, decode (0#4 ++ 0#2 ++ sa.bits ++ 0x21#8) wdata = .ok (.encode sa)) ∧
    (s.NoFault → s.slot sa = none → exec (.encode sa) s = .next (s.faulted .eslot)) ∧
    (∀ p, s.NoFault → s.slot sa = some p → exec (.encode sa) s = .next { s with tx := p.hdr ++ p.pay })

/-- While not halted: an empty slot faults ESLOT, a selector with no row faults ESEL; otherwise exec of FGET answers the state
with RES = the byte, b0 * 256 + b1, or pack of the field's bytes by its kind, and nothing else changed. (R132) -/
def Obligations.FgetReadsTheField : Prop :=
  ∀ (s : State) (sa : SlotId) (sel : BitVec 4),
    (∀ wdata : Word, decode (sel ++ 0#2 ++ sa.bits ++ 0x22#8) wdata = .ok (.fget sa sel)) ∧
    (s.NoFault → s.slot sa = none → exec (.fget sa sel) s = .next (s.faulted .eslot)) ∧
    (∀ p, s.NoFault → s.slot sa = some p →
      (fieldAt p.lay sel = none → exec (.fget sa sel) s = .next (s.faulted .esel)) ∧
      (∀ r, fieldAt p.lay sel = some r → exec (.fget sa sel) s =
        .next { s with res := BitVec.ofNat 64 (
          match r.kind with
          | .u8 => (p.hdr.getD r.off 0).toNat
          | .n16 => (p.hdr.getD r.off 0).toNat * 256 + (p.hdr.getD (r.off + 1) 0).toNat
          | .ip4 => pack ((p.hdr.drop r.off).take 4)
          | .mac => pack ((p.hdr.drop r.off).take 6)) }))

/-- While not halted: an empty slot faults ESLOT, then a selector with no row ESEL, then an operand wider than the field EVAL;
otherwise exec of FSET answers the state with the field's bytes replaced by the operand's (most significant first), the other
header bytes, the payload and everything else unchanged. (R133) -/
def Obligations.FsetReplacesTheField : Prop :=
  ∀ (s : State) (sa : SlotId) (sel : BitVec 4) (v : Word),
    decode (sel ++ 0#2 ++ sa.bits ++ 0x23#8) v = .ok (.fset sa sel v) ∧
    (s.NoFault → s.slot sa = none → exec (.fset sa sel v) s = .next (s.faulted .eslot)) ∧
    (∀ p, s.NoFault → s.slot sa = some p →
      (fieldAt p.lay sel = none → exec (.fset sa sel v) s = .next (s.faulted .esel)) ∧
      (∀ r, fieldAt p.lay sel = some r →
        (2 ^ (8 * r.size) ≤ v.toNat → exec (.fset sa sel v) s = .next (s.faulted .eval)) ∧
        (v.toNat < 2 ^ (8 * r.size) → exec (.fset sa sel v) s =
          .next { s with slots := s.slots.set sa (some { p with
            hdr := p.hdr.take r.off ++ unpack r.size v.toNat ++ p.hdr.drop (r.off + r.size) }) })))

/-- While not halted: an empty slot faults ESLOT; otherwise exec of PAYLEN answers the state with RES = the payload's length
and nothing else changed. (R134) -/
def Obligations.PaylenReadsThePayloadLength : Prop :=
  ∀ (s : State) (sa : SlotId),
    (∀ wdata : Word, decode (0#4 ++ 0#2 ++ sa.bits ++ 0x24#8) wdata = .ok (.paylen sa)) ∧
    (s.NoFault → s.slot sa = none → exec (.paylen sa) s = .next (s.faulted .eslot)) ∧
    (∀ p, s.NoFault → s.slot sa = some p →
      exec (.paylen sa) s = .next { s with res := BitVec.ofNat 64 p.pay.length })

/-- While not halted: an empty source faults ESLOT; otherwise exec of PCOPY answers the state with the destination slot
holding the source's packet, every other slot and everything else unchanged; with source and destination equal nothing
changes. (R135) -/
def Obligations.PcopyClonesThePacket : Prop :=
  ∀ (s : State) (sa sb : SlotId),
    (∀ wdata : Word, decode (0#4 ++ sb.bits ++ sa.bits ++ 0x25#8) wdata = .ok (.pcopy sa sb)) ∧
    (s.NoFault → s.slot sb = none → exec (.pcopy sa sb) s = .next (s.faulted .eslot)) ∧
    (∀ p, s.NoFault → s.slot sb = some p →
      exec (.pcopy sa sb) s = .next { s with slots := s.slots.set sa (some p) } ∧
      (sa = sb → exec (.pcopy sa sb) s = .next s) ∧
      (∀ j, (s.slots.set sa (some p)).get j = if j = sa then some p else s.slot j))

/-- While not halted, exec of PCLR answers the state with the slot None and nothing else changed, whatever the slot held.
(R136) -/
def Obligations.PclrEmptiesTheSlot : Prop :=
  ∀ (s : State) (sa : SlotId),
    (∀ wdata : Word, decode (0#4 ++ 0#2 ++ sa.bits ++ 0x26#8) wdata = .ok (.pclr sa)) ∧
    (s.NoFault → exec (.pclr sa) s = .next { s with slots := s.slots.set sa none })

/-- While not halted: an empty slot faults ESLOT; otherwise exec of PAYRX answers the state with RX = the payload and nothing
else changed. (R137) -/
def Obligations.PayrxHandsOverThePayload : Prop :=
  ∀ (s : State) (sa : SlotId),
    (∀ wdata : Word, decode (0#4 ++ 0#2 ++ sa.bits ++ 0x27#8) wdata = .ok (.payrx sa)) ∧
    (s.NoFault → s.slot sa = none → exec (.payrx sa) s = .next (s.faulted .eslot)) ∧
    (∀ p, s.NoFault → s.slot sa = some p → exec (.payrx sa) s = .next { s with rx := p.pay })

/-- While not halted: an empty slot faults ESLOT; then N(lay) + len(TX) above MAXBUF faults ELEN; otherwise exec of TXPAY
answers the state with the slot's payload = TX, its header and everything else unchanged. (R138) -/
def Obligations.TxpayReplacesThePayload : Prop :=
  ∀ (s : State) (sa : SlotId),
    (∀ wdata : Word, decode (0#4 ++ 0#2 ++ sa.bits ++ 0x28#8) wdata = .ok (.txpay sa)) ∧
    (s.NoFault → s.slot sa = none → exec (.txpay sa) s = .next (s.faulted .eslot)) ∧
    (∀ p, s.NoFault → s.slot sa = some p →
      (Config.maxBuf < headerSize p.lay + s.tx.length → exec (.txpay sa) s = .next (s.faulted .elen)) ∧
      (headerSize p.lay + s.tx.length ≤ Config.maxBuf → exec (.txpay sa) s =
        .next { s with slots := s.slots.set sa (some ⟨p.lay, p.hdr, s.tx⟩) }))

/-- While not halted: an empty slot faults ESLOT whether or not tracing is on; otherwise with TRACE_EN = 0 exec of PTRACE
answers the state itself, and with TRACE_EN = 1 the state with TrPkt(lay, hdr, len(pay)) appended to TRACE and nothing else
changed. (R139) -/
def Obligations.PtraceDumpsWhenTracing : Prop :=
  ∀ (s : State) (sa : SlotId),
    (∀ wdata : Word, decode (0#4 ++ 0#2 ++ sa.bits ++ 0x29#8) wdata = .ok (.ptrace sa)) ∧
    (s.NoFault → s.slot sa = none → exec (.ptrace sa) s = .next (s.faulted .eslot)) ∧
    (∀ p, s.NoFault → s.slot sa = some p →
      (s.TraceOff → exec (.ptrace sa) s = .next s) ∧
      (s.TraceOn → exec (.ptrace sa) s =
        .next { s with trace := s.trace ++ [.pkt p.lay p.hdr p.pay.length] }))

/-- While not halted: RESPOND on an empty slot faults ESLOT; on a packet of another layout ELAY, configured or not; on an ARP
packet with a local address unwritten ECFG. DISPATCH with a local address unwritten faults ECFG, even if RX is empty. (R165,
R166, R204) -/
def Obligations.ResponseCommandsFaultInOrder : Prop :=
  ∀ (s : State), s.NoFault →
    (∀ sa sb, s.slot sa = none → exec (.respond sa sb) s = .next (s.faulted .eslot)) ∧
    (∀ sa sb p, s.slot sa = some p → p.lay ≠ .arp → exec (.respond sa sb) s = .next (s.faulted .elay)) ∧
    (∀ sa sb p, s.slot sa = some p → p.lay = .arp → (s.macv = false ∨ s.ipv = false) →
      exec (.respond sa sb) s = .next (s.faulted .ecfg)) ∧
    (∀ lay, (s.macv = false ∨ s.ipv = false) → exec (.dispatch lay) s = .next (s.faulted .ecfg))

/-- While not halted and configured with link address m and network address a: if the request slot holds an ARP packet whose
dst_ip is a and whose oper bytes are 00 01, exec of RESPOND answers the state with the reply in the reply slot, one emission
of the one buffer reply header ++ payload appended to EMITS, E = 1, one packet dump of the request appended to TRACE exactly
when TRACE_EN = 1, and nothing else changed; the reply header is the request's first six bytes, 00 02, m, a, and the request's
src_mac and src_ip. (R150, R151, R152, R153, R154, R165) -/
def Obligations.RespondAnswersARequest : Prop :=
  ∀ (s : State) (sa sb : SlotId) (m : Mac) (a : Ip4) (h pay : Bytes),
    s.NoFault → s.Configured m a → s.slot sa = some ⟨.arp, h, pay⟩ → h.length = 28 →
    memRead h 24 4 = a.toBytes → memRead h 6 2 = [0x00, 0x01] →
    exec (.respond sa sb) s =
      let reply := h.take 6 ++ [0x00, 0x02] ++ m.toBytes ++ a.toBytes ++ memRead h 8 6 ++ memRead h 14 4
      .next { s with
        slots := s.slots.set sb (some ⟨.arp, reply, pay⟩),
        emits := s.emits ++ [[reply ++ pay]],
        trace := s.trace ++ (if s.traceEn then [.pkt .arp h pay.length] else []),
        st := { s.st with e := true } }

/-- While not halted and configured, on an ARP packet: if dst_ip differs from the local address, exec of RESPOND answers the
state with E = 0 and nothing else changed; if it equals it and the oper bytes are not 00 01, with E = 0, one packet dump
appended to TRACE exactly when TRACE_EN = 1, and nothing else changed: the reply slot, EMITS and TX stay. (R150, R151, R152,
R154, R165) -/
def Obligations.RespondIgnoresOtherPackets : Prop :=
  ∀ (s : State) (sa sb : SlotId) (m : Mac) (a : Ip4) (h pay : Bytes),
    s.NoFault → s.Configured m a → s.slot sa = some ⟨.arp, h, pay⟩ → h.length = 28 →
    (memRead h 24 4 ≠ a.toBytes → exec (.respond sa sb) s = .next { s with st := { s.st with e := false } }) ∧
    (memRead h 24 4 = a.toBytes → memRead h 6 2 ≠ [0x00, 0x01] → exec (.respond sa sb) s =
      .next { s with
        trace := s.trace ++ (if s.traceEn then [.pkt .arp h pay.length] else []),
        st := { s.st with e := false } })

/-- While not halted, configured, and with RX within MAXBUF: nested dispatch on RX answers some ems and trs, none of the
buffers longer than MAXBUF, and exec of DISPATCH answers the state with ems appended to EMITS, trs appended to TRACE, E = 1
exactly when ems is not empty, and nothing else changed. That nested dispatch always answers, within MAXBUF, rests on the
default tables (log entry 7). (R166, R157, R162) -/
def Obligations.DispatchRunsTheReceivePath : Prop :=
  ∀ (s : State) (lay : Layout) (m : Mac) (a : Ip4),
    s.NoFault → s.Configured m a → s.rx.length ≤ Config.maxBuf →
    ∃ h : Handled, dispatchResult lay s.rx ⟨m, a, s.traceEn⟩ = .ok h ∧ tooLong h.ems = false ∧
      exec (.dispatch lay) s = .next { s with
        emits := s.emits ++ h.ems,
        trace := s.trace ++ h.trs,
        st := { s.st with e := decide (h.ems ≠ []) } }

/-- While not halted, configured, and with RX within MAXBUF, for any slots: DECODE of RX as ARP answers t; if V is then 1,
RESPOND on t and DISPATCH ARP on the first state append the same to EMITS and TRACE and leave the same E; if V is 0, DISPATCH
ARP changes only E, to 0. (R166, R165, R130) -/
def Obligations.DispatchArpIsDecodeThenRespond : Prop :=
  ∀ (s : State) (sa sb : SlotId) (m : Mac) (a : Ip4),
    s.NoFault → s.Configured m a → s.rx.length ≤ Config.maxBuf →
    ∃ t w, exec (.decode sa .arp) s = .next t ∧ exec (.dispatch .arp) s = .next w ∧
      (t.st.v = true → ∃ u, exec (.respond sa sb) t = .next u ∧
        u.emits = w.emits ∧ u.trace = w.trace ∧ u.st.e = w.st.e) ∧
      (t.st.v = false → w = { s with st := { s.st with e := false } })

/-- For RX = dst ++ src ++ 08 06 ++ body with dst the local link address or all bytes FF: nested dispatch from ETH emits
exactly what nested dispatch from ARP emits on body, each buffer with src ++ (local link address) ++ 08 06 before it, and
traces the frame's own dump (when tracing is on) and then the inner events. The layout of ETH and the tables FILTER, REG and
WRAP are the spec's defaults (log entries 6 and 7). (R157, R158, R159, R160, R161) -/
def Obligations.DispatchEthWrapsWhatArpEmits : Prop :=
  ∀ (dst src body : Bytes) (cfg : Cfg) (inner : Handled),
    dst.length = 6 → src.length = 6 → (dst = cfg.lmac.toBytes ∨ dst = List.replicate 6 0xFF) →
    dispatchResult .arp body cfg = .ok inner →
    dispatchResult .eth (dst ++ src ++ [0x08, 0x06] ++ body) cfg = .ok
      ⟨inner.ems.map (fun bufs => bufs.map fun x => src ++ cfg.lmac.toBytes ++ [0x08, 0x06] ++ x),
       (if cfg.traceEn then [.pkt .eth (dst ++ src ++ [0x08, 0x06]) body.length] else []) ++ inner.trs⟩

/-- Whatever the bytes and the configuration, dispatch from any layer answers no emission or exactly one of exactly one buffer
whose length is that of the received bytes; from IP4 it answers none, and from ETH with type field 0x0800 none. The layouts
and tables are the spec's defaults (log entries 5, 6, 7). (R156, R157, R159, R160, 42_response.md consequences after R162) -/
def Obligations.DispatchEmitsAtMostOneBuffer : Prop :=
  ∀ (lay : Layout) (b : Bytes) (cfg : Cfg), ∃ h : Handled, dispatchResult lay b cfg = .ok h ∧
    (h.ems = [] ∨ ∃ g, h.ems = [[g]] ∧ g.length = b.length) ∧
    (lay = .ip4 → h.ems = []) ∧
    (lay = .eth → memRead b 12 2 = [0x08, 0x00] → h.ems = [])

/-- While not halted, exec of EMIT answers the state with [TX] appended to EMITS as one new last element, E = 1 and nothing
else changed. (R167) -/
def Obligations.EmitInvokesTheContinuationOnTx : Prop :=
  ∀ (s : State) (wdata : Word), decode 0x0032 wdata = .ok .emit ∧
    (s.NoFault → exec .emit s = .next { s with emits := s.emits ++ [[s.tx]], st := { s.st with e := true } })

/-- The packet decoder reads the request code exactly from 1 and the reply code exactly from 2; no command word decodes to the
two rows; exec of either is refused as no command, in every state. R79 says that they are no commands: the refusal by the name
notACommand is the model's (log entry 12). (R79) -/
def Obligations.ArpOperationCodesAreNoCommands : Prop :=
  (∀ v : Half, (ArpOper.ofCode v = some .request ↔ v = 0x0001) ∧ (ArpOper.ofCode v = some .reply ↔ v = 0x0002)) ∧
  (∀ (cw : Half) (wdata : Word), decode cw wdata ≠ .ok .arpRequest ∧ decode cw wdata ≠ .ok .arpReply) ∧
  (∀ s : State, exec .arpRequest s = .refused (.notACommand "ARP_REQUEST") ∧
    exec .arpReply s = .refused (.notACommand "ARP_REPLY"))

/-- If F = 1, exec of any well-formed instruction that is not CSRR answers the state itself (NOP too). (R205, R180) -/
def Obligations.HaltedUnitIgnoresCommands : Prop :=
  ∀ (s : State) (i : Instr), s.st.f = true → i.wf = true → (∀ csr, i ≠ .csrr csr) → exec i s = .next s

/-- While not halted, if exec of a command answers t, then either F and FCAUSE are unchanged in t, or t is the state with F =
1 and FCAUSE = some cause c and nothing else changed. What a command that does not fault does is said by the statement of that
command. (R203) -/
def Obligations.FaultsArePrecise : Prop :=
  ∀ (s t : State) (i : Instr), s.NoFault → exec i s = .next t →
    (t.st.f = false ∧ t.fcause = s.fcause) ∨
    (∃ c : Cause, t = { s with st := { s.st with f := true }, fcause := some c })

/-- For every well-formed instruction and every state exec answers a next state; a step never ends in a fault of the model,
and it is refused only when the host's move loads a buffer longer than MAXBUF. That DISPATCH is never stuck rests on the
default tables (log entry 7); the refusal of a load that is too long is the model's choice where R184 says that the host has
no such move (log entry 13). (R57, R155, R201, R184) -/
def Obligations.NoCommandStopsTheMachine : Prop :=
  (∀ (s : State) (i : Instr), i.wf = true → ∃ t, exec i s = .next t) ∧
  (∀ (s : State) (r : Fault), step s ≠ .fault r) ∧
  (∀ (s : State) (r : Refusal), step s = .refused r →
    r = .loadTooLong ∧ ∃ b rest, s.moves = .load b :: rest ∧ Config.maxBuf < b.length)

/-- While not halted, whatever RX holds: DECODE completes without fault; with the local addresses configured and RX within
MAXBUF DISPATCH completes without fault; with them configured RESPOND on a slot holding an ARP packet completes without fault.
For DISPATCH this rests on the default tables (log entry 7). (R201, R125, R155) -/
def Obligations.NoContentOfRxFaults : Prop :=
  ∀ (s : State), s.NoFault →
    (∀ sa lay, ∃ t, exec (.decode sa lay) s = .next t ∧ t.st.f = false) ∧
    (∀ m a, s.Configured m a →
      (∀ lay, s.rx.length ≤ Config.maxBuf → ∃ t, exec (.dispatch lay) s = .next t ∧ t.st.f = false) ∧
      (∀ sa sb p, s.slot sa = some p → p.lay = .arp → ∃ t, exec (.respond sa sb) s = .next t ∧ t.st.f = false))

/-- For every command but CSRR CTL, run on two states that differ at most in TRACE_EN and TRACE: both complete, and the two
next states differ at most in TRACE_EN and TRACE. For CSRR CTL, which R182 has read TRACE_EN back: both complete, and the two
next states differ at most in TRACE_EN, TRACE and bit 0 of RES. R28 and R238 name no exception: that the model makes one,
following R182, is log entry 10. (R28, R22, R151, R182, R238) -/
def Obligations.TracingChangesNothingElse : Prop :=
  (∀ (s t : State) (i : Instr), SameButTrace s t → i.wf = true → i ≠ .csrr .ctl →
    ∃ s' t', exec i s = .next s' ∧ exec i t = .next t' ∧ SameButTrace s' t') ∧
  (∀ (s t : State), SameButTrace s t →
    ∃ s' t', exec (.csrr .ctl) s = .next s' ∧ exec (.csrr .ctl) t = .next t' ∧
      SameButTrace { s' with res := 0 } { t' with res := 0 } ∧
      (∀ k, k ≠ 0 → s'.res.getLsbD k = t'.res.getLsbD k))

/-- If exec of a command answers t, then EMITS and TRACE of t are those before with something appended (nothing appended to
EMITS unless the command is RESPOND, DISPATCH or EMIT; nothing appended to TRACE unless it is N16D, FTRACE, PTRACE, RESPOND or
DISPATCH, and by the last three nothing while TRACE_EN = 0). (R27, R28, R22, R231) -/
def Obligations.HistoriesOnlyGrow : Prop :=
  ∀ (s t : State) (i : Instr), exec i s = .next t →
    (∃ e, t.emits = s.emits ++ e ∧ (writesE i = false → e = [])) ∧
    (∃ e, t.trace = s.trace ++ e ∧ (writesTrace i = false → e = []) ∧
      (s.TraceOff → i ≠ .n16d → (∀ sa sel, i ≠ .ftrace sa sel) → e = []))

/-- If exec of a command answers t: RES is unchanged unless it is SWAP16, N16GET, N16STR, FGET, PAYLEN or CSRR; TRACE_EN, LMAC
and LIP unless it is CSRW of that register; V unless DECODE; Z unless MACEQ or IPEQ; E unless RESPOND, DISPATCH or EMIT; the
host's list and index always. (R17, R20, R22, R24, R25, R19) -/
def Obligations.RegistersChangeOnlyByTheirCommands : Prop :=
  ∀ (s t : State) (i : Instr), exec i s = .next t →
    (writesRes i = false → t.res = s.res) ∧
    ((∀ v, i ≠ .csrw .ctl v) → t.traceEn = s.traceEn) ∧
    ((∀ v, i ≠ .csrw .lmac v) → t.lmac = s.lmac) ∧
    ((∀ v, i ≠ .csrw .lip v) → t.lip = s.lip) ∧
    ((∀ sa lay, i ≠ .decode sa lay) → t.st.v = s.st.v) ∧
    ((∀ sa sel cmp, i ≠ .maceq sa sel cmp ∧ i ≠ .ipeq sa sel cmp) → t.st.z = s.st.z) ∧
    (writesE i = false → t.st.e = s.st.e) ∧
    t.moves = s.moves ∧ t.pc = s.pc

/-- If exec of a command answers t: RX is unchanged unless it is PAYRX, TX unless ENCODE, N unless N16SET or N16LDR, and slot
j unless it is DECODE, FSET, PCOPY, PCLR or TXPAY with destination j or RESPOND with reply slot j: a write to one slot never
changes another slot, RX or TX. (R11, R13, R14, R15, R16) -/
def Obligations.BuffersChangeOnlyByTheirCommands : Prop :=
  ∀ (s t : State) (i : Instr), exec i s = .next t →
    ((∀ sa, i ≠ .payrx sa) → t.rx = s.rx) ∧
    ((∀ sa, i ≠ .encode sa) → t.tx = s.tx) ∧
    ((∀ v, i ≠ .n16set v ∧ i ≠ .n16ldr v) → t.n = s.n) ∧
    (∀ j, writesSlot j i = false → t.slot j = s.slot j)

/-- If exec of NOP, CSRR, CSRW, SWAP16, N16GET, N16STR, N16D, MACEQ, IPEQ, FTRACE, FGET, PAYLEN, PTRACE, DISPATCH or EMIT
answers t, then the byte at every offset of every space (RX, TX, the header and payload of each slot, N) is in t what it was.
(R40, R41, R47) -/
def Obligations.CommandsThatStoreNothingKeepMemory : Prop :=
  ∀ (s t : State) (i : Instr), storesNothing i = true → exec i s = .next t → SameMemory s t

/-- If exec answers t: FSET leaves every byte but those of the field (its layout's offset and size, in the header of the slot)
as it was; N16SET and N16LDR every byte outside N; ENCODE outside TX; PAYRX outside RX; TXPAY outside the slot's payload;
DECODE, PCOPY and PCLR outside the destination slot's header and payload; RESPOND outside the reply slot's. (R41, R40, R13,
R127) -/
def Obligations.StoringCommandsKeepOtherBytes : Prop :=
  ∀ (s t : State) (sp : Space) (k : Nat),
    (∀ sa sel v p r, exec (.fset sa sel v) s = .next t → s.slot sa = some p → p.hdr.length = headerSize p.lay →
      fieldAt p.lay sel = some r → (sp = .hdr sa → k < r.off ∨ r.off + r.size ≤ k) →
      t.byteAt sp k = s.byteAt sp k) ∧
    (∀ v, exec (.n16set v) s = .next t → sp ≠ .cell → t.byteAt sp k = s.byteAt sp k) ∧
    (∀ v, exec (.n16ldr v) s = .next t → sp ≠ .cell → t.byteAt sp k = s.byteAt sp k) ∧
    (∀ sa, exec (.encode sa) s = .next t → sp ≠ .tx → t.byteAt sp k = s.byteAt sp k) ∧
    (∀ sa, exec (.payrx sa) s = .next t → sp ≠ .rx → t.byteAt sp k = s.byteAt sp k) ∧
    (∀ sa, exec (.txpay sa) s = .next t → sp ≠ .pay sa → t.byteAt sp k = s.byteAt sp k) ∧
    (∀ sa lay, exec (.decode sa lay) s = .next t → sp ≠ .hdr sa → sp ≠ .pay sa → t.byteAt sp k = s.byteAt sp k) ∧
    (∀ sa sb, exec (.pcopy sa sb) s = .next t → sp ≠ .hdr sa → sp ≠ .pay sa → t.byteAt sp k = s.byteAt sp k) ∧
    (∀ sa, exec (.pclr sa) s = .next t → sp ≠ .hdr sa → sp ≠ .pay sa → t.byteAt sp k = s.byteAt sp k) ∧
    (∀ sa sb, exec (.respond sa sb) s = .next t → sp ≠ .hdr sb → sp ≠ .pay sb → t.byteAt sp k = s.byteAt sp k)

/-- For every packet whose header has its layout's length, decode of its layout on encode of the packet is that packet, header
and payload. (R123) -/
def Obligations.CodecRoundTrip : Prop :=
  ∀ (p : Packet), p.hdr.length = headerSize p.lay → decodePacket p.lay (encodePacket p) = some p

/-- For every layout and buffer of at least N bytes, decode gives some packet of that layout with a full header, and encode of
it is the buffer; a shorter buffer decodes to nothing. (R124, R121) -/
def Obligations.CodecPreservesEveryBuffer : Prop :=
  ∀ (lay : Layout) (b : Bytes),
    (b.length < headerSize lay → decodePacket lay b = none) ∧
    (headerSize lay ≤ b.length → ∃ p, decodePacket lay b = some p ∧ p.lay = lay ∧
      p.hdr = b.take (headerSize lay) ∧ p.hdr.length = headerSize lay ∧ p.pay = b.drop (headerSize lay) ∧
      encodePacket p = b)

/-- swap16 twice is the identity, swap16 v = v exactly when the two bytes of v are equal; get of set v is v and set of get c
is c; the value of a cell is the host conversion of its raw view, which for HOST_ORDER = little is swap16. (R91, R94) -/
def Obligations.Swap16AndN16Laws : Prop :=
  (∀ v : Half, swap16 v = BitVec.ofNat 16 (v.toNat % 256 * 256 + v.toNat / 256) ∧ swap16 (swap16 v) = v ∧
    (swap16 v = v ↔ v.extractLsb' 8 8 = v.extractLsb' 0 8)) ∧
  (∀ v : Half, (N16.ofValue v).get = v.toNat) ∧
  (∀ c : N16, N16.ofValue (BitVec.ofNat 16 c.get) = c ∧
    BitVec.ofNat 16 c.get = toHost Config.hostOrder (c.raw Config.hostOrder) ∧
    toHost Config.hostOrder (c.raw Config.hostOrder) = swap16 (c.b1 ++ c.b0))

/-- For a packet with a full header, rows r and q of its layout and a number x that fits r: fget of r after fset of r with x
is x; fset of r with its own value changes nothing; fget of another row q is unchanged; encode changes only at the field's
offsets; and two packets of one layout with full headers and equal values of all fields have equal headers. (R128) -/
def Obligations.FieldAccessLaws : Prop :=
  (∀ (p : Packet) (i j : BitVec 4) (r q : FieldRow) (x : Word),
    p.hdr.length = headerSize p.lay → fieldAt p.lay i = some r → fieldAt p.lay j = some q → x.toNat < 2 ^ (8 * r.size) →
    (p.fset r x).fget r = x.toNat ∧
    p.fset r (BitVec.ofNat 64 (p.fget r)) = p ∧
    (i ≠ j → (p.fset r x).fget q = p.fget q) ∧
    (∀ k, (k < r.off ∨ r.off + r.size ≤ k) → (encodePacket (p.fset r x))[k]? = (encodePacket p)[k]?)) ∧
  (∀ (p q : Packet), p.lay = q.lay → p.hdr.length = headerSize p.lay → q.hdr.length = headerSize q.lay →
    (∀ i r, fieldAt p.lay i = some r → p.fget r = q.fget r) → p.hdr = q.hdr)

/-- For an ARP packet p with a full header: (a) dst_ip different from the local address: nothing emitted or traced; (b) oper
other than 1: nothing emitted; (c) otherwise one emission of one buffer that decodes to a packet with oper 2, sources the
local addresses, destinations the request's sources, the request's first six bytes and payload; (d) of the request's length;
(e) whose src_ip is the request's dst_ip; (f) reply and emissions do not depend on the request's dst_mac; (g) nor on trace_en.
(R156) -/
def Obligations.ArpResponseContract : Prop :=
  ∀ (p : Packet) (cfg : Cfg), p.lay = .arp → p.hdr.length = 28 →
    (p.fbytes Field.arpDstIp ≠ cfg.lip.toBytes → (respondArp p cfg).ems = [] ∧ (respondArp p cfg).trs = []) ∧
    (p.fget Field.arpOper ≠ 1 → (respondArp p cfg).ems = []) ∧
    (p.fbytes Field.arpDstIp = cfg.lip.toBytes → p.fget Field.arpOper = 1 →
      ∃ b r, (respondArp p cfg).ems = [[b]] ∧ (respondArp p cfg).reply = some r ∧ decodePacket .arp b = some r ∧
        r.fget Field.arpOper = 2 ∧ r.fbytes Field.arpSrcMac = cfg.lmac.toBytes ∧
        r.fbytes Field.arpSrcIp = cfg.lip.toBytes ∧ r.fbytes Field.arpDstMac = p.fbytes Field.arpSrcMac ∧
        r.fbytes Field.arpDstIp = p.fbytes Field.arpSrcIp ∧ r.hdr.take 6 = p.hdr.take 6 ∧ r.pay = p.pay ∧
        b.length = (encodePacket p).length ∧ r.fbytes Field.arpSrcIp = p.fbytes Field.arpDstIp) ∧
    (∀ x : Bytes, x.length = 6 →
      (respondArp (p.patch Field.arpDstMac x) cfg).reply = (respondArp p cfg).reply ∧
      (respondArp (p.patch Field.arpDstMac x) cfg).ems = (respondArp p cfg).ems) ∧
    (∀ en : Bool, (respondArp p { cfg with traceEn := en }).reply = (respondArp p cfg).reply ∧
      (respondArp p { cfg with traceEn := en }).ems = (respondArp p cfg).ems)

/-- For every state and cause: on the state after that fault, exec of CSRR FCAUSE answers it with RES = 1 for ECMD, 2 for
ESLOT, 3 for ELAY, 4 for ESEL, 5 for EVAL, 6 for ECFG, 7 for ELEN, and exec of CSRR ST answers it with bit 3 of RES set;
nothing else changes. (R202, R182, R23, R20) -/
def Obligations.FaultCausesReadAsTheirCodes : Prop :=
  ∀ (s : State) (c : Cause),
    exec (.csrr .fcause) (s.faulted c) = .next { s.faulted c with
      res := match c with
        | .ecmd => 1
        | .eslot => 2
        | .elay => 3
        | .esel => 4
        | .eval => 5
        | .ecfg => 6
        | .elen => 7 } ∧
    ∃ t, exec (.csrr .st) (s.faulted c) = .next t ∧ t.res.getLsbD 3 = true ∧ t = { s.faulted c with res := t.res }

/-- With DispatchRunsTheReceivePath, which says that DISPATCH appends exactly this to EMITS and TRACE, for any bytes b: a
buffer shorter than the layer's header gives no emission and no trace; the ARP layer gives what the response contract gives on
the decoded packet; a frame whose dst is neither the local link address nor all bytes FF gives nothing; an accepted frame of a
type other than 08 06 and 08 00 gives no emission and only the frame's own dump (when tracing is on); an accepted frame of
type 08 00 gives no emission, and the frame's own dump followed by what the IPv4 layer traces on the payload; an IPv4 packet
whose dst is neither the local network address nor BCAST_IP gives nothing, and any other gives no emission and only its own
dump (when tracing is on). The layouts, BCAST_IP and the tables FILTER, REG and WRAP are the spec's defaults (log entries 5, 6
and 7). (R157, R158, R159, R161, R162, R121) -/
def Obligations.NestedDispatchLayerByLayer : Prop :=
  ∀ (b : Bytes) (cfg : Cfg),
    (∀ lay, b.length < headerSize lay → dispatchResult lay b cfg = .ok ⟨[], []⟩) ∧
    (∀ p, decodePacket .arp b = some p →
      dispatchResult .arp b cfg = .ok ⟨(respondArp p cfg).ems, (respondArp p cfg).trs⟩) ∧
    (14 ≤ b.length → memRead b 0 6 ≠ cfg.lmac.toBytes → memRead b 0 6 ≠ List.replicate 6 0xFF →
      dispatchResult .eth b cfg = .ok ⟨[], []⟩) ∧
    (14 ≤ b.length → (memRead b 0 6 = cfg.lmac.toBytes ∨ memRead b 0 6 = List.replicate 6 0xFF) →
      (memRead b 12 2 ≠ [0x08, 0x06] → memRead b 12 2 ≠ [0x08, 0x00] → dispatchResult .eth b cfg =
        .ok ⟨[], if cfg.traceEn then [.pkt .eth (b.take 14) (b.length - 14)] else []⟩) ∧
      (memRead b 12 2 = [0x08, 0x00] →
        ∃ inner, dispatchResult .ip4 (b.drop 14) cfg = .ok inner ∧ dispatchResult .eth b cfg =
          .ok ⟨[], (if cfg.traceEn then [.pkt .eth (b.take 14) (b.length - 14)] else []) ++ inner.trs⟩)) ∧
    (20 ≤ b.length → memRead b 16 4 ≠ cfg.lip.toBytes → memRead b 16 4 ≠ bcastIp.toBytes →
      dispatchResult .ip4 b cfg = .ok ⟨[], []⟩) ∧
    (20 ≤ b.length → (memRead b 16 4 = cfg.lip.toBytes ∨ memRead b 16 4 = bcastIp.toBytes) →
      dispatchResult .ip4 b cfg =
        .ok ⟨[], if cfg.traceEn then [.pkt .ip4 (b.take 20) (b.length - 20)] else []⟩)
end

