-- ==== Sys2Proof/Laws/State.lean ====
section
/-! SUPPORT. What every named update of the state leaves in every field; true by definition. -/

namespace Sys2Proof.Machine

variable (s : State)

/-! ### `State.setSlot` -/

@[simp] theorem State.setSlot_slots (i : SlotId) (o : Option Packet) : (s.setSlot i o).slots = s.slots.set i o := rfl
@[simp] theorem State.setSlot_rx (i : SlotId) (o : Option Packet) : (s.setSlot i o).rx = s.rx := rfl
@[simp] theorem State.setSlot_tx (i : SlotId) (o : Option Packet) : (s.setSlot i o).tx = s.tx := rfl
@[simp] theorem State.setSlot_n (i : SlotId) (o : Option Packet) : (s.setSlot i o).n = s.n := rfl
@[simp] theorem State.setSlot_res (i : SlotId) (o : Option Packet) : (s.setSlot i o).res = s.res := rfl
@[simp] theorem State.setSlot_traceEn (i : SlotId) (o : Option Packet) : (s.setSlot i o).traceEn = s.traceEn := rfl
@[simp] theorem State.setSlot_lmac (i : SlotId) (o : Option Packet) : (s.setSlot i o).lmac = s.lmac := rfl
@[simp] theorem State.setSlot_lip (i : SlotId) (o : Option Packet) : (s.setSlot i o).lip = s.lip := rfl
@[simp] theorem State.setSlot_st (i : SlotId) (o : Option Packet) : (s.setSlot i o).st = s.st := rfl
@[simp] theorem State.setSlot_fcause (i : SlotId) (o : Option Packet) : (s.setSlot i o).fcause = s.fcause := rfl
@[simp] theorem State.setSlot_emits (i : SlotId) (o : Option Packet) : (s.setSlot i o).emits = s.emits := rfl
@[simp] theorem State.setSlot_trace (i : SlotId) (o : Option Packet) : (s.setSlot i o).trace = s.trace := rfl
@[simp] theorem State.setSlot_moves (i : SlotId) (o : Option Packet) : (s.setSlot i o).moves = s.moves := rfl
@[simp] theorem State.setSlot_pc (i : SlotId) (o : Option Packet) : (s.setSlot i o).pc = s.pc := rfl

/-! ### `State.setRx` -/

@[simp] theorem State.setRx_slots (b : Bytes) : (s.setRx b).slots = s.slots := rfl
@[simp] theorem State.setRx_rx (b : Bytes) : (s.setRx b).rx = b := rfl
@[simp] theorem State.setRx_tx (b : Bytes) : (s.setRx b).tx = s.tx := rfl
@[simp] theorem State.setRx_n (b : Bytes) : (s.setRx b).n = s.n := rfl
@[simp] theorem State.setRx_res (b : Bytes) : (s.setRx b).res = s.res := rfl
@[simp] theorem State.setRx_traceEn (b : Bytes) : (s.setRx b).traceEn = s.traceEn := rfl
@[simp] theorem State.setRx_lmac (b : Bytes) : (s.setRx b).lmac = s.lmac := rfl
@[simp] theorem State.setRx_lip (b : Bytes) : (s.setRx b).lip = s.lip := rfl
@[simp] theorem State.setRx_st (b : Bytes) : (s.setRx b).st = s.st := rfl
@[simp] theorem State.setRx_fcause (b : Bytes) : (s.setRx b).fcause = s.fcause := rfl
@[simp] theorem State.setRx_emits (b : Bytes) : (s.setRx b).emits = s.emits := rfl
@[simp] theorem State.setRx_trace (b : Bytes) : (s.setRx b).trace = s.trace := rfl
@[simp] theorem State.setRx_moves (b : Bytes) : (s.setRx b).moves = s.moves := rfl
@[simp] theorem State.setRx_pc (b : Bytes) : (s.setRx b).pc = s.pc := rfl

/-! ### `State.setTx` -/

@[simp] theorem State.setTx_slots (b : Bytes) : (s.setTx b).slots = s.slots := rfl
@[simp] theorem State.setTx_rx (b : Bytes) : (s.setTx b).rx = s.rx := rfl
@[simp] theorem State.setTx_tx (b : Bytes) : (s.setTx b).tx = b := rfl
@[simp] theorem State.setTx_n (b : Bytes) : (s.setTx b).n = s.n := rfl
@[simp] theorem State.setTx_res (b : Bytes) : (s.setTx b).res = s.res := rfl
@[simp] theorem State.setTx_traceEn (b : Bytes) : (s.setTx b).traceEn = s.traceEn := rfl
@[simp] theorem State.setTx_lmac (b : Bytes) : (s.setTx b).lmac = s.lmac := rfl
@[simp] theorem State.setTx_lip (b : Bytes) : (s.setTx b).lip = s.lip := rfl
@[simp] theorem State.setTx_st (b : Bytes) : (s.setTx b).st = s.st := rfl
@[simp] theorem State.setTx_fcause (b : Bytes) : (s.setTx b).fcause = s.fcause := rfl
@[simp] theorem State.setTx_emits (b : Bytes) : (s.setTx b).emits = s.emits := rfl
@[simp] theorem State.setTx_trace (b : Bytes) : (s.setTx b).trace = s.trace := rfl
@[simp] theorem State.setTx_moves (b : Bytes) : (s.setTx b).moves = s.moves := rfl
@[simp] theorem State.setTx_pc (b : Bytes) : (s.setTx b).pc = s.pc := rfl

/-! ### `State.setN` -/

@[simp] theorem State.setN_slots (c : N16) : (s.setN c).slots = s.slots := rfl
@[simp] theorem State.setN_rx (c : N16) : (s.setN c).rx = s.rx := rfl
@[simp] theorem State.setN_tx (c : N16) : (s.setN c).tx = s.tx := rfl
@[simp] theorem State.setN_n (c : N16) : (s.setN c).n = c := rfl
@[simp] theorem State.setN_res (c : N16) : (s.setN c).res = s.res := rfl
@[simp] theorem State.setN_traceEn (c : N16) : (s.setN c).traceEn = s.traceEn := rfl
@[simp] theorem State.setN_lmac (c : N16) : (s.setN c).lmac = s.lmac := rfl
@[simp] theorem State.setN_lip (c : N16) : (s.setN c).lip = s.lip := rfl
@[simp] theorem State.setN_st (c : N16) : (s.setN c).st = s.st := rfl
@[simp] theorem State.setN_fcause (c : N16) : (s.setN c).fcause = s.fcause := rfl
@[simp] theorem State.setN_emits (c : N16) : (s.setN c).emits = s.emits := rfl
@[simp] theorem State.setN_trace (c : N16) : (s.setN c).trace = s.trace := rfl
@[simp] theorem State.setN_moves (c : N16) : (s.setN c).moves = s.moves := rfl
@[simp] theorem State.setN_pc (c : N16) : (s.setN c).pc = s.pc := rfl

/-! ### `State.setRes` -/

@[simp] theorem State.setRes_slots (v : Word) : (s.setRes v).slots = s.slots := rfl
@[simp] theorem State.setRes_rx (v : Word) : (s.setRes v).rx = s.rx := rfl
@[simp] theorem State.setRes_tx (v : Word) : (s.setRes v).tx = s.tx := rfl
@[simp] theorem State.setRes_n (v : Word) : (s.setRes v).n = s.n := rfl
@[simp] theorem State.setRes_res (v : Word) : (s.setRes v).res = v := rfl
@[simp] theorem State.setRes_traceEn (v : Word) : (s.setRes v).traceEn = s.traceEn := rfl
@[simp] theorem State.setRes_lmac (v : Word) : (s.setRes v).lmac = s.lmac := rfl
@[simp] theorem State.setRes_lip (v : Word) : (s.setRes v).lip = s.lip := rfl
@[simp] theorem State.setRes_st (v : Word) : (s.setRes v).st = s.st := rfl
@[simp] theorem State.setRes_fcause (v : Word) : (s.setRes v).fcause = s.fcause := rfl
@[simp] theorem State.setRes_emits (v : Word) : (s.setRes v).emits = s.emits := rfl
@[simp] theorem State.setRes_trace (v : Word) : (s.setRes v).trace = s.trace := rfl
@[simp] theorem State.setRes_moves (v : Word) : (s.setRes v).moves = s.moves := rfl
@[simp] theorem State.setRes_pc (v : Word) : (s.setRes v).pc = s.pc := rfl

/-! ### `State.setTraceEn` -/

@[simp] theorem State.setTraceEn_slots (b : Bool) : (s.setTraceEn b).slots = s.slots := rfl
@[simp] theorem State.setTraceEn_rx (b : Bool) : (s.setTraceEn b).rx = s.rx := rfl
@[simp] theorem State.setTraceEn_tx (b : Bool) : (s.setTraceEn b).tx = s.tx := rfl
@[simp] theorem State.setTraceEn_n (b : Bool) : (s.setTraceEn b).n = s.n := rfl
@[simp] theorem State.setTraceEn_res (b : Bool) : (s.setTraceEn b).res = s.res := rfl
@[simp] theorem State.setTraceEn_traceEn (b : Bool) : (s.setTraceEn b).traceEn = b := rfl
@[simp] theorem State.setTraceEn_lmac (b : Bool) : (s.setTraceEn b).lmac = s.lmac := rfl
@[simp] theorem State.setTraceEn_lip (b : Bool) : (s.setTraceEn b).lip = s.lip := rfl
@[simp] theorem State.setTraceEn_st (b : Bool) : (s.setTraceEn b).st = s.st := rfl
@[simp] theorem State.setTraceEn_fcause (b : Bool) : (s.setTraceEn b).fcause = s.fcause := rfl
@[simp] theorem State.setTraceEn_emits (b : Bool) : (s.setTraceEn b).emits = s.emits := rfl
@[simp] theorem State.setTraceEn_trace (b : Bool) : (s.setTraceEn b).trace = s.trace := rfl
@[simp] theorem State.setTraceEn_moves (b : Bool) : (s.setTraceEn b).moves = s.moves := rfl
@[simp] theorem State.setTraceEn_pc (b : Bool) : (s.setTraceEn b).pc = s.pc := rfl

/-! ### `State.setLmac` -/

@[simp] theorem State.setLmac_slots (m : Mac) : (s.setLmac m).slots = s.slots := rfl
@[simp] theorem State.setLmac_rx (m : Mac) : (s.setLmac m).rx = s.rx := rfl
@[simp] theorem State.setLmac_tx (m : Mac) : (s.setLmac m).tx = s.tx := rfl
@[simp] theorem State.setLmac_n (m : Mac) : (s.setLmac m).n = s.n := rfl
@[simp] theorem State.setLmac_res (m : Mac) : (s.setLmac m).res = s.res := rfl
@[simp] theorem State.setLmac_traceEn (m : Mac) : (s.setLmac m).traceEn = s.traceEn := rfl
@[simp] theorem State.setLmac_lmac (m : Mac) : (s.setLmac m).lmac = some m := rfl
@[simp] theorem State.setLmac_lip (m : Mac) : (s.setLmac m).lip = s.lip := rfl
@[simp] theorem State.setLmac_st (m : Mac) : (s.setLmac m).st = s.st := rfl
@[simp] theorem State.setLmac_fcause (m : Mac) : (s.setLmac m).fcause = s.fcause := rfl
@[simp] theorem State.setLmac_emits (m : Mac) : (s.setLmac m).emits = s.emits := rfl
@[simp] theorem State.setLmac_trace (m : Mac) : (s.setLmac m).trace = s.trace := rfl
@[simp] theorem State.setLmac_moves (m : Mac) : (s.setLmac m).moves = s.moves := rfl
@[simp] theorem State.setLmac_pc (m : Mac) : (s.setLmac m).pc = s.pc := rfl

/-! ### `State.setLip` -/

@[simp] theorem State.setLip_slots (a : Ip4) : (s.setLip a).slots = s.slots := rfl
@[simp] theorem State.setLip_rx (a : Ip4) : (s.setLip a).rx = s.rx := rfl
@[simp] theorem State.setLip_tx (a : Ip4) : (s.setLip a).tx = s.tx := rfl
@[simp] theorem State.setLip_n (a : Ip4) : (s.setLip a).n = s.n := rfl
@[simp] theorem State.setLip_res (a : Ip4) : (s.setLip a).res = s.res := rfl
@[simp] theorem State.setLip_traceEn (a : Ip4) : (s.setLip a).traceEn = s.traceEn := rfl
@[simp] theorem State.setLip_lmac (a : Ip4) : (s.setLip a).lmac = s.lmac := rfl
@[simp] theorem State.setLip_lip (a : Ip4) : (s.setLip a).lip = some a := rfl
@[simp] theorem State.setLip_st (a : Ip4) : (s.setLip a).st = s.st := rfl
@[simp] theorem State.setLip_fcause (a : Ip4) : (s.setLip a).fcause = s.fcause := rfl
@[simp] theorem State.setLip_emits (a : Ip4) : (s.setLip a).emits = s.emits := rfl
@[simp] theorem State.setLip_trace (a : Ip4) : (s.setLip a).trace = s.trace := rfl
@[simp] theorem State.setLip_moves (a : Ip4) : (s.setLip a).moves = s.moves := rfl
@[simp] theorem State.setLip_pc (a : Ip4) : (s.setLip a).pc = s.pc := rfl

/-! ### `State.setV` -/

@[simp] theorem State.setV_slots (b : Bool) : (s.setV b).slots = s.slots := rfl
@[simp] theorem State.setV_rx (b : Bool) : (s.setV b).rx = s.rx := rfl
@[simp] theorem State.setV_tx (b : Bool) : (s.setV b).tx = s.tx := rfl
@[simp] theorem State.setV_n (b : Bool) : (s.setV b).n = s.n := rfl
@[simp] theorem State.setV_res (b : Bool) : (s.setV b).res = s.res := rfl
@[simp] theorem State.setV_traceEn (b : Bool) : (s.setV b).traceEn = s.traceEn := rfl
@[simp] theorem State.setV_lmac (b : Bool) : (s.setV b).lmac = s.lmac := rfl
@[simp] theorem State.setV_lip (b : Bool) : (s.setV b).lip = s.lip := rfl
@[simp] theorem State.setV_st (b : Bool) : (s.setV b).st = { s.st with v := b } := rfl
@[simp] theorem State.setV_fcause (b : Bool) : (s.setV b).fcause = s.fcause := rfl
@[simp] theorem State.setV_emits (b : Bool) : (s.setV b).emits = s.emits := rfl
@[simp] theorem State.setV_trace (b : Bool) : (s.setV b).trace = s.trace := rfl
@[simp] theorem State.setV_moves (b : Bool) : (s.setV b).moves = s.moves := rfl
@[simp] theorem State.setV_pc (b : Bool) : (s.setV b).pc = s.pc := rfl

/-! ### `State.setZ` -/

@[simp] theorem State.setZ_slots (b : Bool) : (s.setZ b).slots = s.slots := rfl
@[simp] theorem State.setZ_rx (b : Bool) : (s.setZ b).rx = s.rx := rfl
@[simp] theorem State.setZ_tx (b : Bool) : (s.setZ b).tx = s.tx := rfl
@[simp] theorem State.setZ_n (b : Bool) : (s.setZ b).n = s.n := rfl
@[simp] theorem State.setZ_res (b : Bool) : (s.setZ b).res = s.res := rfl
@[simp] theorem State.setZ_traceEn (b : Bool) : (s.setZ b).traceEn = s.traceEn := rfl
@[simp] theorem State.setZ_lmac (b : Bool) : (s.setZ b).lmac = s.lmac := rfl
@[simp] theorem State.setZ_lip (b : Bool) : (s.setZ b).lip = s.lip := rfl
@[simp] theorem State.setZ_st (b : Bool) : (s.setZ b).st = { s.st with z := b } := rfl
@[simp] theorem State.setZ_fcause (b : Bool) : (s.setZ b).fcause = s.fcause := rfl
@[simp] theorem State.setZ_emits (b : Bool) : (s.setZ b).emits = s.emits := rfl
@[simp] theorem State.setZ_trace (b : Bool) : (s.setZ b).trace = s.trace := rfl
@[simp] theorem State.setZ_moves (b : Bool) : (s.setZ b).moves = s.moves := rfl
@[simp] theorem State.setZ_pc (b : Bool) : (s.setZ b).pc = s.pc := rfl

/-! ### `State.setE` -/

@[simp] theorem State.setE_slots (b : Bool) : (s.setE b).slots = s.slots := rfl
@[simp] theorem State.setE_rx (b : Bool) : (s.setE b).rx = s.rx := rfl
@[simp] theorem State.setE_tx (b : Bool) : (s.setE b).tx = s.tx := rfl
@[simp] theorem State.setE_n (b : Bool) : (s.setE b).n = s.n := rfl
@[simp] theorem State.setE_res (b : Bool) : (s.setE b).res = s.res := rfl
@[simp] theorem State.setE_traceEn (b : Bool) : (s.setE b).traceEn = s.traceEn := rfl
@[simp] theorem State.setE_lmac (b : Bool) : (s.setE b).lmac = s.lmac := rfl
@[simp] theorem State.setE_lip (b : Bool) : (s.setE b).lip = s.lip := rfl
@[simp] theorem State.setE_st (b : Bool) : (s.setE b).st = { s.st with e := b } := rfl
@[simp] theorem State.setE_fcause (b : Bool) : (s.setE b).fcause = s.fcause := rfl
@[simp] theorem State.setE_emits (b : Bool) : (s.setE b).emits = s.emits := rfl
@[simp] theorem State.setE_trace (b : Bool) : (s.setE b).trace = s.trace := rfl
@[simp] theorem State.setE_moves (b : Bool) : (s.setE b).moves = s.moves := rfl
@[simp] theorem State.setE_pc (b : Bool) : (s.setE b).pc = s.pc := rfl

/-! ### `State.emitAll` -/

@[simp] theorem State.emitAll_slots (e : List (List Bytes)) : (s.emitAll e).slots = s.slots := rfl
@[simp] theorem State.emitAll_rx (e : List (List Bytes)) : (s.emitAll e).rx = s.rx := rfl
@[simp] theorem State.emitAll_tx (e : List (List Bytes)) : (s.emitAll e).tx = s.tx := rfl
@[simp] theorem State.emitAll_n (e : List (List Bytes)) : (s.emitAll e).n = s.n := rfl
@[simp] theorem State.emitAll_res (e : List (List Bytes)) : (s.emitAll e).res = s.res := rfl
@[simp] theorem State.emitAll_traceEn (e : List (List Bytes)) : (s.emitAll e).traceEn = s.traceEn := rfl
@[simp] theorem State.emitAll_lmac (e : List (List Bytes)) : (s.emitAll e).lmac = s.lmac := rfl
@[simp] theorem State.emitAll_lip (e : List (List Bytes)) : (s.emitAll e).lip = s.lip := rfl
@[simp] theorem State.emitAll_st (e : List (List Bytes)) : (s.emitAll e).st = s.st := rfl
@[simp] theorem State.emitAll_fcause (e : List (List Bytes)) : (s.emitAll e).fcause = s.fcause := rfl
@[simp] theorem State.emitAll_emits (e : List (List Bytes)) : (s.emitAll e).emits = s.emits ++ e := rfl
@[simp] theorem State.emitAll_trace (e : List (List Bytes)) : (s.emitAll e).trace = s.trace := rfl
@[simp] theorem State.emitAll_moves (e : List (List Bytes)) : (s.emitAll e).moves = s.moves := rfl
@[simp] theorem State.emitAll_pc (e : List (List Bytes)) : (s.emitAll e).pc = s.pc := rfl

/-! ### `State.traceAll` -/

@[simp] theorem State.traceAll_slots (e : List TraceEvent) : (s.traceAll e).slots = s.slots := rfl
@[simp] theorem State.traceAll_rx (e : List TraceEvent) : (s.traceAll e).rx = s.rx := rfl
@[simp] theorem State.traceAll_tx (e : List TraceEvent) : (s.traceAll e).tx = s.tx := rfl
@[simp] theorem State.traceAll_n (e : List TraceEvent) : (s.traceAll e).n = s.n := rfl
@[simp] theorem State.traceAll_res (e : List TraceEvent) : (s.traceAll e).res = s.res := rfl
@[simp] theorem State.traceAll_traceEn (e : List TraceEvent) : (s.traceAll e).traceEn = s.traceEn := rfl
@[simp] theorem State.traceAll_lmac (e : List TraceEvent) : (s.traceAll e).lmac = s.lmac := rfl
@[simp] theorem State.traceAll_lip (e : List TraceEvent) : (s.traceAll e).lip = s.lip := rfl
@[simp] theorem State.traceAll_st (e : List TraceEvent) : (s.traceAll e).st = s.st := rfl
@[simp] theorem State.traceAll_fcause (e : List TraceEvent) : (s.traceAll e).fcause = s.fcause := rfl
@[simp] theorem State.traceAll_emits (e : List TraceEvent) : (s.traceAll e).emits = s.emits := rfl
@[simp] theorem State.traceAll_trace (e : List TraceEvent) : (s.traceAll e).trace = s.trace ++ e := rfl
@[simp] theorem State.traceAll_moves (e : List TraceEvent) : (s.traceAll e).moves = s.moves := rfl
@[simp] theorem State.traceAll_pc (e : List TraceEvent) : (s.traceAll e).pc = s.pc := rfl

/-! ### `State.faulted` -/

@[simp] theorem State.faulted_slots (c : Cause) : (s.faulted c).slots = s.slots := rfl
@[simp] theorem State.faulted_rx (c : Cause) : (s.faulted c).rx = s.rx := rfl
@[simp] theorem State.faulted_tx (c : Cause) : (s.faulted c).tx = s.tx := rfl
@[simp] theorem State.faulted_n (c : Cause) : (s.faulted c).n = s.n := rfl
@[simp] theorem State.faulted_res (c : Cause) : (s.faulted c).res = s.res := rfl
@[simp] theorem State.faulted_traceEn (c : Cause) : (s.faulted c).traceEn = s.traceEn := rfl
@[simp] theorem State.faulted_lmac (c : Cause) : (s.faulted c).lmac = s.lmac := rfl
@[simp] theorem State.faulted_lip (c : Cause) : (s.faulted c).lip = s.lip := rfl
@[simp] theorem State.faulted_st (c : Cause) : (s.faulted c).st = { s.st with f := true } := rfl
@[simp] theorem State.faulted_fcause (c : Cause) : (s.faulted c).fcause = some c := rfl
@[simp] theorem State.faulted_emits (c : Cause) : (s.faulted c).emits = s.emits := rfl
@[simp] theorem State.faulted_trace (c : Cause) : (s.faulted c).trace = s.trace := rfl
@[simp] theorem State.faulted_moves (c : Cause) : (s.faulted c).moves = s.moves := rfl
@[simp] theorem State.faulted_pc (c : Cause) : (s.faulted c).pc = s.pc := rfl

end Sys2Proof.Machine
end

