-- ==== Sys2Proof/Laws/Ops.lean ====
section
/-! SUPPORT. One lemma per shared operation: everything it can answer. -/

namespace Sys2Proof.Machine

/-! ### MAXBUF -/

theorem maxBuf_ge : 60 ≤ Config.maxBuf := Nat.le_add_left _ _

theorem maxBuf_lt : Config.maxBuf < 2 ^ 32 := by
  have h := Config.maxBufAbove60.isLt
  unfold Config.maxBuf
  omega

/-! ### Slots -/

@[simp] theorem Slots.get_set_same (q : Slots) (i : SlotId) (o : Option Packet) : (q.set i o).get i = o := by
  cases i <;> rfl

@[simp] theorem Slots.get_set_of_ne (q : Slots) {i j : SlotId} (o : Option Packet) (h : j ≠ i) :
    (q.set i o).get j = q.get j := by
  cases i <;> cases j <;> first | rfl | exact absurd rfl h

theorem State.slot_setSlot_same (s : State) (i : SlotId) (o : Option Packet) : (s.setSlot i o).slot i = o :=
  Slots.get_set_same s.slots i o

theorem State.slot_setSlot_of_ne (s : State) {i j : SlotId} (o : Option Packet) (h : j ≠ i) :
    (s.setSlot i o).slot j = s.slot j :=
  Slots.get_set_of_ne s.slots o h

/-- A slot's contents depend on the slots alone. -/
theorem State.slot_congr {s t : State} (h : t.slots = s.slots) (i : SlotId) : t.slot i = s.slot i := by
  unfold State.slot
  rw [h]

/-- The bytes depend on the slots, the two buffers and the cell alone. -/
theorem State.byteAt_congr {s t : State} (hs : t.slots = s.slots) (hr : t.rx = s.rx) (ht : t.tx = s.tx) (hn : t.n = s.n)
    (sp : Space) (off : Nat) : t.byteAt sp off = s.byteAt sp off := by
  cases sp <;> simp [State.byteAt, State.space, State.slot, hs, hr, ht, hn]

/-! ### Fault entry and the command cycle -/

theorem State.takeFault_of_halted {s : State} (h : s.st.f = true) (c : Cause) : s.takeFault c = s := by
  simp [State.takeFault, h]

theorem State.takeFault_of_noFault {s : State} (h : s.st.f = false) (c : Cause) : s.takeFault c = s.faulted c := by
  simp [State.takeFault, State.faulted, h]

/-- Everything `finish` can answer. -/
theorem finish_cases (s : State) (r : Except Cause State) :
    (∃ t, r = .ok t ∧ finish s r = .next t) ∨ (∃ c, r = .error c ∧ finish s r = .next (s.takeFault c)) := by
  cases r with
  | ok t => exact .inl ⟨t, rfl, rfl⟩
  | error c => exact .inr ⟨c, rfl, rfl⟩

theorem command_of_halted {s : State} (h : s.st.f = true) (r : Except Cause State) : command s r = .next s := by
  simp [command, h]

theorem command_ok {s t : State} (h : s.st.f = false) : command s (.ok t) = .next t := by
  simp [command, finish, h]

theorem command_error {s : State} (h : s.st.f = false) (c : Cause) : command s (.error c) = .next (s.faulted c) := by
  simp [command, finish, h, State.takeFault_of_noFault h]

/-- Everything `command` can answer: it never stops. -/
theorem command_cases (s : State) (r : Except Cause State) :
    (s.st.f = true ∧ command s r = .next s) ∨
    (s.st.f = false ∧ ∃ t, r = .ok t ∧ command s r = .next t) ∨
    (s.st.f = false ∧ ∃ c, r = .error c ∧ command s r = .next (s.faulted c)) := by
  cases h : s.st.f with
  | true => exact .inl ⟨rfl, command_of_halted h r⟩
  | false =>
    cases r with
    | ok t => exact .inr (.inl ⟨rfl, t, rfl, command_ok h⟩)
    | error c => exact .inr (.inr ⟨rfl, c, rfl, command_error h c⟩)

/-! ### The operand checks -/

theorem State.packet_eq (s : State) (i : SlotId) :
    (s.slot i = none ∧ s.packet i = .error .eslot) ∨ (∃ p, s.slot i = some p ∧ s.packet i = .ok p) := by
  unfold State.packet
  cases h : s.slot i with
  | none => exact .inl ⟨rfl, rfl⟩
  | some p => exact .inr ⟨p, rfl, rfl⟩

theorem State.packet_of_some {s : State} {i : SlotId} {p : Packet} (h : s.slot i = some p) : s.packet i = .ok p := by
  simp [State.packet, h]

theorem State.packet_of_none {s : State} {i : SlotId} (h : s.slot i = none) : s.packet i = .error .eslot := by
  simp [State.packet, h]

theorem fieldOf_of_some {lay : Layout} {sel : BitVec 4} {r : FieldRow} (h : fieldAt lay sel = some r) :
    fieldOf lay sel = .ok r := by
  simp [fieldOf, h]

theorem fieldOf_of_none {lay : Layout} {sel : BitVec 4} (h : fieldAt lay sel = none) : fieldOf lay sel = .error .esel := by
  simp [fieldOf, h]

theorem fieldOfKind_of_some {lay : Layout} {sel : BitVec 4} {r : FieldRow} {k : Kind} (h : fieldAt lay sel = some r)
    (hk : r.kind = k) : fieldOfKind lay sel k = .ok r := by
  simp [fieldOfKind, h, hk]

/-- `fieldOfKind` answers the row of that kind and nothing else. -/
theorem fieldOfKind_ok {lay : Layout} {sel : BitVec 4} {r : FieldRow} {k : Kind} (h : fieldOfKind lay sel k = .ok r) :
    fieldAt lay sel = some r ∧ r.kind = k := by
  unfold fieldOfKind at h
  split at h
  · cases h
  · split at h
    · injection h with h
      subst h
      exact ⟨‹_›, ‹_›⟩
    · cases h

theorem operand_of_lt {w : Nat} {v : Word} (h : v.toNat < 2 ^ w) : operand w v = .ok v := by
  simp [operand, fits, h]

theorem operand_of_not_lt {w : Nat} {v : Word} (h : ¬ v.toNat < 2 ^ w) : operand w v = .error .eval := by
  simp [operand, fits, h]

theorem State.config_of_configured {s : State} {m : Mac} {a : Ip4} (hm : s.lmac = some m) (ha : s.lip = some a) :
    s.config = .ok ⟨m, a, s.traceEn⟩ := by
  simp [State.config, State.localMac, State.localIp, hm, ha, bind, Except.bind, pure, Except.pure]

theorem State.config_of_not_configured {s : State} (h : s.lmac = none ∨ s.lip = none) : s.config = .error .ecfg := by
  rcases h with h | h
  · simp [State.config, State.localMac, h, bind, Except.bind]
  · cases hm : s.lmac <;> simp [State.config, State.localMac, State.localIp, h, hm, bind, Except.bind]

/-! ### Fetching -/

theorem State.fetch_nil {s : State} (h : s.moves = []) : s.fetch = none := by
  simp [State.fetch, h]

theorem State.fetch_cons {s : State} {m : Move} {rest : List Move} (h : s.moves = m :: rest) :
    s.fetch = some (m, { s with moves := rest, pc := s.pc + 1 }) := by
  simp [State.fetch, h]

end Sys2Proof.Machine
end

