-- ==== Sys2Proof/Laws/Memory.lean ====
section
/-! SUPPORT. The canonical form of the memory: what it says, and that every operation over the memory keeps it. -/

namespace Sys2Proof.Machine

/-- The form, clause by clause. -/
theorem Memory.wf_iff (s : State) :
    Memory.wf s = true ↔
      (∀ i, slotWf (s.slot i) = true) ∧ s.rx.length ≤ Config.maxBuf ∧ s.tx.length ≤ Config.maxBuf := by
  simp only [Memory.wf, Bool.and_eq_true, decide_eq_true_eq]
  constructor
  · rintro ⟨⟨⟨⟨⟨h0, h1⟩, h2⟩, h3⟩, hr⟩, ht⟩
    refine ⟨fun i => ?_, hr, ht⟩
    cases i
    · exact h0
    · exact h1
    · exact h2
    · exact h3
  · rintro ⟨h, hr, ht⟩
    exact ⟨⟨⟨⟨⟨h .p0, h .p1⟩, h .p2⟩, h .p3⟩, hr⟩, ht⟩

theorem slotWf_some (p : Packet) :
    slotWf (some p) = true ↔ p.hdr.length = headerSize p.lay ∧ headerSize p.lay + p.pay.length ≤ Config.maxBuf := by
  simp [slotWf]

theorem State.reset_wf : Memory.wf State.reset = true := by
  simp [Memory.wf, slotWf, State.reset]

theorem Memory.wf_setSlot {s : State} (h : Memory.wf s = true) (i : SlotId) {o : Option Packet} (ho : slotWf o = true) :
    Memory.wf (s.setSlot i o) = true := by
  rw [Memory.wf_iff] at h ⊢
  refine ⟨fun j => ?_, h.2⟩
  by_cases hj : j = i
  · subst hj
    rw [State.slot_setSlot_same]
    exact ho
  · rw [State.slot_setSlot_of_ne s o hj]
    exact h.1 j

theorem Memory.wf_setRx {s : State} (h : Memory.wf s = true) {b : Bytes} (hb : b.length ≤ Config.maxBuf) :
    Memory.wf (s.setRx b) = true := by
  rw [Memory.wf_iff] at h ⊢
  exact ⟨h.1, hb, h.2.2⟩

theorem Memory.wf_setTx {s : State} (h : Memory.wf s = true) {b : Bytes} (hb : b.length ≤ Config.maxBuf) :
    Memory.wf (s.setTx b) = true := by
  rw [Memory.wf_iff] at h ⊢
  exact ⟨h.1, h.2.1, hb⟩

/-- The form depends on the slots and the two buffers alone. -/
theorem Memory.wf_congr {s t : State} (hs : t.slots = s.slots) (hr : t.rx = s.rx) (ht : t.tx = s.tx) :
    Memory.wf t = Memory.wf s := by
  simp [Memory.wf, hs, hr, ht]

/-! ### Bytes in a space -/

@[simp] theorem memWrite_length {space b : Bytes} {off : Nat} (h : off + b.length ≤ space.length) :
    (memWrite space off b).length = space.length := by
  simp [memWrite]
  omega

/-- A read of what was just written gives it back. -/
theorem memRead_memWrite_same {space b : Bytes} {off : Nat} (h : off + b.length ≤ space.length) :
    memRead (memWrite space off b) off b.length = b := by
  have hl : (space.take off).length = off := by simp; omega
  unfold memRead memWrite
  rw [List.append_assoc, List.drop_append_of_le_length (by omega), List.drop_of_length_le (by omega)]
  simp

/-- A write leaves every byte outside it alone. -/
theorem memWrite_getElem?_of_not_mem {space b : Bytes} {off k : Nat} (h : off + b.length ≤ space.length)
    (hk : k < off ∨ off + b.length ≤ k) : (memWrite space off b)[k]? = space[k]? := by
  have hl : (space.take off).length = off := by simp; omega
  unfold memWrite
  rcases hk with hk | hk
  · rw [List.append_assoc, List.getElem?_append_left (by omega), List.getElem?_take_of_lt hk]
  · rw [List.getElem?_append_right (by simp; omega), List.getElem?_drop]
    congr 1
    simp
    omega

/-! ### Packets -/

/-- Every row of a layout's table lies inside the header. -/
theorem fieldAt_bound {lay : Layout} {sel : BitVec 4} {r : FieldRow} (h : fieldAt lay sel = some r) :
    r.off + r.size ≤ headerSize lay := by
  have hr : r ∈ fieldTable lay := List.mem_of_getElem? h
  have all : ∀ lay : Layout, ∀ r ∈ fieldTable lay, r.off + r.size ≤ headerSize lay := by
    intro lay
    cases lay <;> decide
  exact all lay r hr

@[simp] theorem unpack_length (k v : Nat) : (unpack k v).length = k := by
  induction k with
  | zero => rfl
  | succ k ih => simp [unpack, ih]

/-- The bytes stored in a field are as many as the field has. -/
@[simp] theorem fieldBytes_length (k : Kind) (x : Word) : (fieldBytes k x).length = k.size := by
  cases k <;> simp [fieldBytes, toBe16, Kind.size]

theorem Packet.fbytes_length {p : Packet} {r : FieldRow} (h : r.off + r.size ≤ p.hdr.length) :
    (p.fbytes r).length = r.size := by
  simp [Packet.fbytes, memRead]
  omega

/-- `decode` gives a well-formed packet of the whole buffer (41_codec.md R121). -/
theorem decodePacket_some {lay : Layout} {b : Bytes} {p : Packet} (h : decodePacket lay b = some p) :
    p.lay = lay ∧ p.hdr = b.take (headerSize lay) ∧ p.pay = b.drop (headerSize lay) ∧ headerSize lay ≤ b.length := by
  unfold decodePacket at h
  split at h
  · cases h
  · injection h with h
    subst h
    exact ⟨rfl, rfl, rfl, by omega⟩

theorem decodePacket_wf {lay : Layout} {b : Bytes} {p : Packet} (h : decodePacket lay b = some p)
    (hb : b.length ≤ Config.maxBuf) : slotWf (some p) = true := by
  obtain ⟨h1, h2, h3, h4⟩ := decodePacket_some h
  rw [slotWf_some, h1, h2, h3]
  simp
  omega

/-- Replacing a field's bytes by as many keeps a packet well formed (10_state.md R12). -/
theorem Packet.patch_wf {p : Packet} {r : FieldRow} {b : Bytes} (hp : slotWf (some p) = true)
    (hr : r.off + b.length ≤ headerSize p.lay) : slotWf (some (p.patch r b)) = true := by
  rw [slotWf_some] at hp ⊢
  refine ⟨?_, hp.2⟩
  show (memWrite p.hdr r.off b).length = headerSize p.lay
  rw [memWrite_length (by omega)]
  exact hp.1

end Sys2Proof.Machine
end

