-- ==== Sys2Proof/Laws/Contract.lean ====
section
/-! SUPPORT. What the response contract and nested dispatch answer, layer by layer, with this hardware's tables. -/

namespace Sys2Proof.Machine

/-! ### The ARP response contract -/

/-- Everything `respondArp` can answer (42_response.md R150 to R154). -/
theorem respondArp_cases (p : Packet) (cfg : Cfg) :
    (arpAccepts p cfg = false ∧ respondArp p cfg = ⟨none, [], []⟩) ∨
    (arpAccepts p cfg = true ∧ arpOperation p ≠ some .request ∧
      respondArp p cfg = ⟨none, [], dumpIf cfg.traceEn p⟩) ∨
    (arpAccepts p cfg = true ∧ arpOperation p = some .request ∧
      respondArp p cfg =
        ⟨some (arpReplyPacket p cfg), [[encodePacket (arpReplyPacket p cfg)]], dumpIf cfg.traceEn p⟩) := by
  unfold respondArp
  cases arpAccepts p cfg with
  | false => exact .inl ⟨rfl, rfl⟩
  | true =>
    cases h : arpOperation p with
    | none => exact .inr (.inl ⟨rfl, by simp, rfl⟩)
    | some o =>
      cases o with
      | request => exact .inr (.inr ⟨rfl, rfl, rfl⟩)
      | reply => exact .inr (.inl ⟨rfl, by simp, rfl⟩)

@[simp] theorem arpReplyPacket_lay (p : Packet) (cfg : Cfg) : (arpReplyPacket p cfg).lay = p.lay := rfl

@[simp] theorem arpReplyPacket_pay (p : Packet) (cfg : Cfg) : (arpReplyPacket p cfg).pay = p.pay := rfl

/-- Patching a field inside a header keeps the header's length. -/
theorem Packet.patch_hdr_length {p : Packet} {r : FieldRow} {b : Bytes} {k n : Nat} (hp : p.hdr.length = n)
    (hk : b.length = k) (h : r.off + k ≤ n) : (p.patch r b).hdr.length = n := by
  subst hp hk
  exact memWrite_length h

/-- The reply's header is as long as the request's (42_response.md R156 (d)). -/
theorem arpReplyPacket_hdr_length {p : Packet} (cfg : Cfg) (h : p.hdr.length = 28) :
    (arpReplyPacket p cfg).hdr.length = 28 := by
  have hm : (p.fbytes Field.arpSrcMac).length = 6 := Packet.fbytes_length (r := Field.arpSrcMac) (by rw [h]; decide)
  have hi : (p.fbytes Field.arpSrcIp).length = 4 := Packet.fbytes_length (r := Field.arpSrcIp) (by rw [h]; decide)
  have h1 := Packet.patch_hdr_length (r := Field.arpOper) (b := toBe16 ArpOper.reply.code) h rfl (by decide)
  have h2 := Packet.patch_hdr_length (r := Field.arpDstMac) h1 hm (by decide)
  have h3 := Packet.patch_hdr_length (r := Field.arpDstIp) h2 hi (by decide)
  have h4 := Packet.patch_hdr_length (r := Field.arpSrcMac) (b := cfg.lmac.toBytes) (k := 6) h3 rfl (by decide)
  exact Packet.patch_hdr_length (r := Field.arpSrcIp) (b := cfg.lip.toBytes) (k := 4) h4 rfl (by decide)

/-- A reply is well formed when the request is an ARP packet that is. -/
theorem arpReplyPacket_wf {p : Packet} (cfg : Cfg) (hl : p.lay = .arp) (hp : slotWf (some p) = true) :
    slotWf (some (arpReplyPacket p cfg)) = true := by
  rw [slotWf_some, hl] at hp
  rw [slotWf_some, arpReplyPacket_lay, arpReplyPacket_pay, hl]
  exact ⟨arpReplyPacket_hdr_length cfg hp.1, hp.2⟩

/-! ### Nested dispatch -/

theorem handle_arp (T : Tables) (depth : Nat) (b : Bytes) (cfg : Cfg) :
    handle T (depth + 1) .arp b cfg =
      match decodePacket .arp b with
      | none => .ok ⟨[], []⟩
      | some p => .ok ⟨(respondArp p cfg).ems, (respondArp p cfg).trs⟩ := by
  unfold handle
  cases decodePacket .arp b <;> rfl

/-- IP4 has no inner layer: it only traces (42_response.md R159). -/
theorem handle_ip4 (depth : Nat) (b : Bytes) (cfg : Cfg) :
    handle tables (depth + 1) .ip4 b cfg =
      match decodePacket .ip4 b with
      | none => .ok ⟨[], []⟩
      | some p => .ok ⟨[], if acceptsOf .ip4 p cfg then dumpIf cfg.traceEn p else []⟩ := by
  unfold handle
  cases decodePacket .ip4 b with
  | none => rfl
  | some p =>
    dsimp only
    rw [if_neg (by decide : ¬ Layout.ip4 = Layout.arp)]
    show (if acceptsOf .ip4 p cfg = true then Except.ok (⟨[], dumpIf cfg.traceEn p⟩ : Handled) else .ok ⟨[], []⟩) = _
    split_ifs <;> rfl

/-- ETH hands the payload of an accepted frame to the registered layer, and wraps what that layer emits (42_response.md R157). -/
theorem handle_eth (depth : Nat) (b : Bytes) (cfg : Cfg) :
    handle tables (depth + 1) .eth b cfg =
      match decodePacket .eth b with
      | none => .ok ⟨[], []⟩
      | some p =>
        if acceptsOf .eth p cfg then
          match registryOf .eth (p.fget Field.ethEtype) with
          | none => .ok ⟨[], dumpIf cfg.traceEn p⟩
          | some lay' =>
            match handle tables depth lay' p.pay cfg with
            | .error f => .error f
            | .ok inner =>
              .ok ⟨wrapAll (memWrite (memWrite p.hdr 0 (memRead p.hdr 6 6)) 6 cfg.lmac.toBytes) inner.ems,
                dumpIf cfg.traceEn p ++ inner.trs⟩
        else .ok ⟨[], []⟩ := by
  conv => lhs; unfold handle
  cases decodePacket .eth b with
  | none => rfl
  | some p =>
    show (if acceptsOf .eth p cfg = true then _ else _) = (if acceptsOf .eth p cfg = true then _ else _)
    congr 1

/-- With this hardware's tables nested dispatch is never stuck. -/
theorem dispatchResult_ok (lay : Layout) (b : Bytes) (cfg : Cfg) : ∃ h, dispatchResult lay b cfg = .ok h := by
  have arp : ∀ depth b, ∃ h, handle tables (depth + 1) .arp b cfg = .ok h := by
    intro depth b
    rw [handle_arp]
    cases decodePacket .arp b <;> exact ⟨_, rfl⟩
  have ip4 : ∀ depth b, ∃ h, handle tables (depth + 1) .ip4 b cfg = .ok h := by
    intro depth b
    rw [handle_ip4]
    cases decodePacket .ip4 b <;> exact ⟨_, rfl⟩
  cases lay with
  | arp => exact arp 0 b
  | ip4 => exact ip4 1 b
  | eth =>
    show ∃ h, handle tables (2 + 1) .eth b cfg = .ok h
    rw [handle_eth]
    cases decodePacket .eth b with
    | none => exact ⟨_, rfl⟩
    | some p =>
      dsimp only
      by_cases hp : acceptsOf .eth p cfg = true
      · rw [if_pos hp]
        unfold registryOf
        dsimp only
        split_ifs
        · obtain ⟨h, hh⟩ := arp 1 p.pay
          exact ⟨_, by dsimp only; rw [hh]⟩
        · obtain ⟨h, hh⟩ := ip4 1 p.pay
          exact ⟨_, by dsimp only; rw [hh]⟩
        · exact ⟨_, rfl⟩
      · rw [if_neg hp]
        exact ⟨_, rfl⟩

end Sys2Proof.Machine
end

