-- ==== Sys2Proof/Laws/PerInstr.lean ====
section
/-! SUPPORT. Statements made per instruction: an instruction's command word is a word of its own row of the opcode map. -/

namespace Sys2Proof.Laws

/-- A well-formed instruction's command word belongs to the row that bears its mnemonic (30_encoding.md R72). -/
def WordInRow.Statement (i : Instr) : Prop :=
  i.wf = true → ∃ r ∈ opRows, r.mnemonic = i.mnemonic ∧ r.covers (encode i).1 = true

/-- It is enough to name the row by its place in the map and to give the word. -/
theorem WordInRow.of_row {i : Instr} (k : Nat) (w : Half) (hk : k < opRows.length) (hw : (encode i).1 = w)
    (hm : opRows[k].mnemonic = i.mnemonic) (hc : opRows[k].covers w = true) : WordInRow.Statement i := by
  intro _
  exact ⟨opRows[k], List.getElem_mem hk, hm, hw ▸ hc⟩

theorem WordInRow.nop : WordInRow.Statement .nop :=
  WordInRow.of_row 0 (commandWord 0x00 0 0 0) (by decide) rfl rfl (by decide)

theorem WordInRow.csrr (csr : Csr) : WordInRow.Statement (.csrr csr) :=
  WordInRow.of_row 1 (commandWord 0x01 0 0 csr.bits) (by decide) rfl rfl (by cases csr <;> decide)

theorem WordInRow.csrw (csr : Csr) (v : Word) : WordInRow.Statement (.csrw csr v) :=
  WordInRow.of_row 2 (commandWord 0x02 0 0 csr.bits) (by decide) rfl rfl (by cases csr <;> decide)

theorem WordInRow.swap16 (v : Word) : WordInRow.Statement (.swap16 v) :=
  WordInRow.of_row 3 (commandWord 0x10 0 0 0) (by decide) rfl rfl (by decide)

theorem WordInRow.n16set (v : Word) : WordInRow.Statement (.n16set v) :=
  WordInRow.of_row 4 (commandWord 0x11 0 0 0) (by decide) rfl rfl (by decide)

theorem WordInRow.n16get : WordInRow.Statement .n16get :=
  WordInRow.of_row 5 (commandWord 0x12 0 0 0) (by decide) rfl rfl (by decide)

theorem WordInRow.n16ldr (v : Word) : WordInRow.Statement (.n16ldr v) :=
  WordInRow.of_row 6 (commandWord 0x13 0 0 0) (by decide) rfl rfl (by decide)

theorem WordInRow.n16str : WordInRow.Statement .n16str :=
  WordInRow.of_row 7 (commandWord 0x14 0 0 0) (by decide) rfl rfl (by decide)

theorem WordInRow.n16d : WordInRow.Statement .n16d :=
  WordInRow.of_row 8 (commandWord 0x15 0 0 0) (by decide) rfl rfl (by decide)

theorem WordInRow.maceq (sa : SlotId) (sel : BitVec 4) (cmp : Comparand) : WordInRow.Statement (.maceq sa sel cmp) :=
  WordInRow.of_row 9 (commandWord 0x16 sa.bits cmp.bits sel) (by decide) rfl rfl (by generalize cmp.bits = c; cases sa <;> (revert c sel; decide))

theorem WordInRow.ipeq (sa : SlotId) (sel : BitVec 4) (cmp : Comparand) : WordInRow.Statement (.ipeq sa sel cmp) :=
  WordInRow.of_row 10 (commandWord 0x17 sa.bits cmp.bits sel) (by decide) rfl rfl (by generalize cmp.bits = c; cases sa <;> (revert c sel; decide))

theorem WordInRow.ftrace (sa : SlotId) (sel : BitVec 4) : WordInRow.Statement (.ftrace sa sel) :=
  WordInRow.of_row 11 (commandWord 0x18 sa.bits 0 sel) (by decide) rfl rfl (by cases sa <;> (revert sel; decide))

theorem WordInRow.decode (sa : SlotId) (lay : Layout) : WordInRow.Statement (.decode sa lay) :=
  WordInRow.of_row 12 (commandWord 0x20 sa.bits 0 (lay.bits.setWidth 4)) (by decide) rfl rfl (by cases sa <;> cases lay <;> decide)

theorem WordInRow.encode (sa : SlotId) : WordInRow.Statement (.encode sa) :=
  WordInRow.of_row 13 (commandWord 0x21 sa.bits 0 0) (by decide) rfl rfl (by cases sa <;> decide)

theorem WordInRow.fget (sa : SlotId) (sel : BitVec 4) : WordInRow.Statement (.fget sa sel) :=
  WordInRow.of_row 14 (commandWord 0x22 sa.bits 0 sel) (by decide) rfl rfl (by cases sa <;> (revert sel; decide))

theorem WordInRow.fset (sa : SlotId) (sel : BitVec 4) (v : Word) : WordInRow.Statement (.fset sa sel v) :=
  WordInRow.of_row 15 (commandWord 0x23 sa.bits 0 sel) (by decide) rfl rfl (by cases sa <;> (revert sel; decide))

theorem WordInRow.paylen (sa : SlotId) : WordInRow.Statement (.paylen sa) :=
  WordInRow.of_row 16 (commandWord 0x24 sa.bits 0 0) (by decide) rfl rfl (by cases sa <;> decide)

theorem WordInRow.pcopy (sa sb : SlotId) : WordInRow.Statement (.pcopy sa sb) :=
  WordInRow.of_row 17 (commandWord 0x25 sa.bits sb.bits 0) (by decide) rfl rfl (by cases sa <;> cases sb <;> decide)

theorem WordInRow.pclr (sa : SlotId) : WordInRow.Statement (.pclr sa) :=
  WordInRow.of_row 18 (commandWord 0x26 sa.bits 0 0) (by decide) rfl rfl (by cases sa <;> decide)

theorem WordInRow.payrx (sa : SlotId) : WordInRow.Statement (.payrx sa) :=
  WordInRow.of_row 19 (commandWord 0x27 sa.bits 0 0) (by decide) rfl rfl (by cases sa <;> decide)

theorem WordInRow.txpay (sa : SlotId) : WordInRow.Statement (.txpay sa) :=
  WordInRow.of_row 20 (commandWord 0x28 sa.bits 0 0) (by decide) rfl rfl (by cases sa <;> decide)

theorem WordInRow.ptrace (sa : SlotId) : WordInRow.Statement (.ptrace sa) :=
  WordInRow.of_row 21 (commandWord 0x29 sa.bits 0 0) (by decide) rfl rfl (by cases sa <;> decide)

theorem WordInRow.respond (sa sb : SlotId) : WordInRow.Statement (.respond sa sb) :=
  WordInRow.of_row 22 (commandWord 0x30 sa.bits sb.bits 0) (by decide) rfl rfl (by cases sa <;> cases sb <;> decide)

theorem WordInRow.dispatch (lay : Layout) : WordInRow.Statement (.dispatch lay) :=
  WordInRow.of_row 23 (commandWord 0x31 0 0 (lay.bits.setWidth 4)) (by decide) rfl rfl (by cases lay <;> decide)

theorem WordInRow.emit : WordInRow.Statement .emit :=
  WordInRow.of_row 24 (commandWord 0x32 0 0 0) (by decide) rfl rfl (by decide)

/-- No command word: the row is no command (30_encoding.md R79). -/
theorem WordInRow.arpRequest : WordInRow.Statement .arpRequest :=
  fun h => absurd h (by decide)

/-- No command word: the row is no command (30_encoding.md R79). -/
theorem WordInRow.arpReply : WordInRow.Statement .arpReply :=
  fun h => absurd h (by decide)

end Sys2Proof.Laws
end

