-- ==== Sys2Proof/Laws/Encoding.lean ====
section
/-! SUPPORT. The fields of a command word are those it is made of, and a word is made of its fields. -/

namespace Sys2Proof

theorem commandWord_getLsbD (op : BitVec 8) (sa sb : BitVec 2) (sel : BitVec 4) (k : Nat) :
    (commandWord op sa sb sel).getLsbD k =
      if k < 8 then op.getLsbD k else if k < 10 then sa.getLsbD (k - 8)
      else if k < 12 then sb.getLsbD (k - 10) else sel.getLsbD (k - 12) := by
  show BitVec.getLsbD (w := 4 + 2 + 2 + 8) (sel ++ sb ++ sa ++ op) k = _
  simp only [BitVec.getLsbD_append]
  rw [show k - 8 - 2 = k - 10 by omega, show k - 10 - 2 = k - 12 by omega]
  split_ifs <;> first | rfl | omega

@[simp] theorem opBits_commandWord (op : BitVec 8) (sa sb : BitVec 2) (sel : BitVec 4) :
    opBits (commandWord op sa sb sel) = op := by
  ext i hi
  simp [opBits, commandWord_getLsbD, hi]

@[simp] theorem saBits_commandWord (op : BitVec 8) (sa sb : BitVec 2) (sel : BitVec 4) :
    saBits (commandWord op sa sb sel) = sa := by
  ext i hi
  simp [saBits, commandWord_getLsbD, BitVec.getLsbD_eq_getElem hi, show 8 + i < 10 by omega]

@[simp] theorem sbBits_commandWord (op : BitVec 8) (sa sb : BitVec 2) (sel : BitVec 4) :
    sbBits (commandWord op sa sb sel) = sb := by
  ext i hi
  simp [sbBits, commandWord_getLsbD, BitVec.getLsbD_eq_getElem hi, show ¬ 10 + i < 8 by omega, show 10 + i < 12 by omega]

@[simp] theorem selBits_commandWord (op : BitVec 8) (sa sb : BitVec 2) (sel : BitVec 4) :
    selBits (commandWord op sa sb sel) = sel := by
  ext i hi
  simp [selBits, commandWord_getLsbD, BitVec.getLsbD_eq_getElem hi, show ¬ 12 + i < 8 by omega,
    show ¬ 12 + i < 10 by omega]

@[simp] theorem layBits_commandWord (op : BitVec 8) (sa sb : BitVec 2) (sel : BitVec 4) :
    layBits (commandWord op sa sb sel) = sel.extractLsb' 0 2 := by
  ext i hi
  simp [layBits, commandWord_getLsbD, show ¬ 12 + i < 8 by omega, show ¬ 12 + i < 10 by omega]

/-- A word is made of its four fields (30_encoding.md R70). -/
theorem commandWord_fields (cw : Half) : commandWord (opBits cw) (saBits cw) (sbBits cw) (selBits cw) = cw := by
  apply BitVec.eq_of_getLsbD_eq
  intro k hk
  rw [commandWord_getLsbD]
  simp only [opBits, saBits, sbBits, selBits, BitVec.getLsbD_extractLsb']
  split_ifs with h1 h2 h3
  · simp [h1]
  · simp [show k - 8 < 2 by omega, show 8 + (k - 8) = k by omega]
  · simp [show k - 10 < 2 by omega, show 10 + (k - 10) = k by omega]
  · simp [show k - 12 < 4 by omega, show 12 + (k - 12) = k by omega]

/-- A row whose mask takes in `op` covers only words of its own `op`. -/
theorem OpRow.covers_op {r : OpRow} {cw : Half} (hm : opBits r.mask = 0xFF) (h : r.covers cw = true) :
    opBits cw = opBits r.pattern := by
  have h : cw &&& r.mask = r.pattern := by simpa [OpRow.covers] using h
  rw [← h]
  have e : opBits (cw &&& r.mask) = opBits cw &&& opBits r.mask := by
    ext i hi
    simp [opBits]
  rw [e, hm]
  exact (BitVec.and_allOnes (x := opBits cw)).symm

/-- Every row's mask takes in the whole `op` (30_encoding.md R72, "how the masks are built"). -/
theorem opRows_mask_op : ∀ r ∈ opRows, opBits r.mask = 0xFF := by decide

/-! ### A number written as a number -/

@[simp] theorem SlotId.ofBits_bits (i : SlotId) : SlotId.ofBits i.bits = i := by
  cases i <;> rfl

@[simp] theorem SlotId.bits_ofBits (b : BitVec 2) : (SlotId.ofBits b).bits = b := by
  revert b
  decide

@[simp] theorem Csr.ofBits_bits (c : Csr) : Csr.ofBits c.bits = some c := by
  cases c <;> rfl

@[simp] theorem Layout.ofBits_bits (l : Layout) : Layout.ofBits l.bits = some l := by
  cases l <;> rfl

@[simp] theorem Comparand.ofBits_bits (c : Comparand) : Comparand.ofBits c.bits c.operand = c := by
  cases c <;> rfl

end Sys2Proof
end

