-- ==== Sys2Proof/Laws/Meanings.lean ====
section
/-! SUPPORT. One lemma per meaning: every next state it can answer. -/

namespace Sys2Proof.Machine

/-- How a command that goes on has ended: ignored by a halted unit, faulted, or with the effect `P` (43_system.md R180). -/
def Ended (s t : State) (P : Prop) : Prop :=
  (s.st.f = true ∧ t = s) ∨ (s.st.f = false ∧ ∃ c, t = s.faulted c) ∨ (s.st.f = false ∧ P)

/-- What a computation that answered went through. -/
theorem bind_ok {α β : Type} {x : Except Cause α} {f : α → Except Cause β} {b : β} (h : (x >>= f) = .ok b) :
    ∃ a, x = .ok a ∧ f a = .ok b := by
  cases x with
  | error c => cases h
  | ok a => exact ⟨a, rfl, h⟩

theorem command_next {s t : State} {r : Except Cause State} {P : Prop} (h : command s r = .next t) (hP : r = .ok t → P) :
    Ended s t P := by
  rcases command_cases s r with ⟨hf, e⟩ | ⟨hf, u, hu, e⟩ | ⟨hf, c, -, e⟩ <;> rw [e] at h <;> injection h with h <;>
    subst h
  · exact .inl ⟨hf, rfl⟩
  · exact .inr (.inr ⟨hf, hP hu⟩)
  · exact .inr (.inl ⟨hf, c, rfl⟩)

theorem State.packet_ok {s : State} {i : SlotId} {p : Packet} (h : s.packet i = .ok p) : s.slot i = some p := by
  rcases s.packet_eq i with ⟨-, e⟩ | ⟨q, hq, e⟩ <;> rw [e] at h <;> cases h
  exact hq

theorem fieldOf_ok {lay : Layout} {sel : BitVec 4} {r : FieldRow} (h : fieldOf lay sel = .ok r) :
    fieldAt lay sel = some r := by
  cases hr : fieldAt lay sel with
  | none => rw [fieldOf_of_none hr] at h; cases h
  | some q => rw [fieldOf_of_some hr] at h; cases h; rfl

theorem operand_ok {w : Nat} {v x : Word} (h : operand w v = .ok x) : v = x ∧ v.toNat < 2 ^ w := by
  by_cases hv : v.toNat < 2 ^ w
  · rw [operand_of_lt hv] at h
    cases h
    exact ⟨rfl, hv⟩
  · rw [operand_of_not_lt hv] at h
    cases h

theorem State.config_ok {s : State} {cfg : Cfg} (h : s.config = .ok cfg) :
    s.lmac = some cfg.lmac ∧ s.lip = some cfg.lip ∧ cfg.traceEn = s.traceEn := by
  cases hm : s.lmac with
  | none => rw [State.config_of_not_configured (.inl hm)] at h; cases h
  | some m =>
    cases ha : s.lip with
    | none => rw [State.config_of_not_configured (.inr ha)] at h; cases h
    | some a =>
      rw [State.config_of_configured hm ha] at h
      cases h
      exact ⟨rfl, rfl, rfl⟩

/-! ### System commands -/

theorem execCsrr_next {csr : Csr} {s t : State} (h : execCsrr csr s = .next t) :
    (∃ v, csrValue csr s = .ok v ∧ t = s.setRes v) ∨ (∃ c, csrValue csr s = .error c ∧ t = s.takeFault c) := by
  unfold execCsrr at h
  cases hv : csrValue csr s with
  | ok v => rw [hv] at h; cases h; exact .inl ⟨v, rfl, rfl⟩
  | error c => rw [hv] at h; cases h; exact .inr ⟨c, rfl, rfl⟩

theorem execCsrw_next {csr : Csr} {v : Word} {s t : State} (h : execCsrw csr v s = .next t) :
    Ended s t ((csr = .ctl ∧ t = s.setTraceEn (v.getLsbD 0)) ∨
      (csr = .lmac ∧ t = s.setLmac (Mac.ofBits (v.setWidth 48))) ∨
      (csr = .lip ∧ t = s.setLip (Ip4.ofBits (v.setWidth 32)))) := by
  refine command_next h fun h1 => ?_
  cases csr with
  | ctl =>
    obtain ⟨x, hx, h1⟩ := bind_ok h1
    obtain ⟨rfl, -⟩ := operand_ok hx
    cases h1
    exact .inl ⟨rfl, rfl⟩
  | lmac =>
    obtain ⟨x, hx, h1⟩ := bind_ok h1
    obtain ⟨rfl, -⟩ := operand_ok hx
    cases h1
    exact .inr (.inl ⟨rfl, rfl⟩)
  | lip =>
    obtain ⟨x, hx, h1⟩ := bind_ok h1
    obtain ⟨rfl, -⟩ := operand_ok hx
    cases h1
    exact .inr (.inr ⟨rfl, rfl⟩)
  | st => cases h1
  | fcause => cases h1
  | rxlen => cases h1
  | txlen => cases h1

/-! ### Primitive commands -/

theorem execSwap16_next {v : Word} {s t : State} (h : execSwap16 v s = .next t) :
    Ended s t (v.toNat < 2 ^ 16 ∧ t = s.setRes ((swap16 (v.setWidth 16)).setWidth 64)) := by
  refine command_next h fun h1 => ?_
  obtain ⟨x, hx, h1⟩ := bind_ok h1
  obtain ⟨rfl, hv⟩ := operand_ok hx
  cases h1
  exact ⟨hv, rfl⟩

theorem execN16set_next {v : Word} {s t : State} (h : execN16set v s = .next t) :
    Ended s t (v.toNat < 2 ^ 16 ∧ t = s.setN (N16.ofValue (v.setWidth 16))) := by
  refine command_next h fun h1 => ?_
  obtain ⟨x, hx, h1⟩ := bind_ok h1
  obtain ⟨rfl, hv⟩ := operand_ok hx
  cases h1
  exact ⟨hv, rfl⟩

theorem execN16get_next {s t : State} (h : execN16get s = .next t) : Ended s t (t = s.setRes (BitVec.ofNat 64 s.n.get)) :=
  command_next h fun h => by cases h; rfl

theorem execN16ldr_next {v : Word} {s t : State} (h : execN16ldr v s = .next t) :
    Ended s t (v.toNat < 2 ^ 16 ∧ t = s.setN (N16.ofRaw Config.hostOrder (v.setWidth 16))) := by
  refine command_next h fun h1 => ?_
  obtain ⟨x, hx, h1⟩ := bind_ok h1
  obtain ⟨rfl, hv⟩ := operand_ok hx
  cases h1
  exact ⟨hv, rfl⟩

theorem execN16str_next {s t : State} (h : execN16str s = .next t) :
    Ended s t (t = s.setRes ((s.n.raw Config.hostOrder).setWidth 64)) :=
  command_next h fun h => by cases h; rfl

theorem execN16d_next {s t : State} (h : execN16d s = .next t) :
    Ended s t (t = s.traceAll [.n16 (BitVec.ofNat 16 s.n.get)]) :=
  command_next h fun h => by cases h; rfl

theorem execMaceq_next {sa : SlotId} {sel : BitVec 4} {cmp : Comparand} {s t : State} (h : execMaceq sa sel cmp s = .next t) :
    Ended s t (∃ z, t = s.setZ z) := by
  refine command_next h fun h1 => ?_
  obtain ⟨p, -, h1⟩ := bind_ok h1
  obtain ⟨r, -, h1⟩ := bind_ok h1
  obtain ⟨b, -, h1⟩ := bind_ok h1
  cases h1
  exact ⟨_, rfl⟩

theorem execIpeq_next {sa : SlotId} {sel : BitVec 4} {cmp : Comparand} {s t : State} (h : execIpeq sa sel cmp s = .next t) :
    Ended s t (∃ z, t = s.setZ z) := by
  refine command_next h fun h1 => ?_
  obtain ⟨p, -, h1⟩ := bind_ok h1
  obtain ⟨r, -, h1⟩ := bind_ok h1
  obtain ⟨b, -, h1⟩ := bind_ok h1
  cases h1
  exact ⟨_, rfl⟩

theorem execFtrace_next {sa : SlotId} {sel : BitVec 4} {s t : State} (h : execFtrace sa sel s = .next t) :
    Ended s t (∃ p r, s.slot sa = some p ∧ fieldAt p.lay sel = some r ∧ t = s.traceAll [dField r.kind (p.fbytes r)]) := by
  refine command_next h fun h1 => ?_
  obtain ⟨p, hp, h1⟩ := bind_ok h1
  obtain ⟨r, hr, h1⟩ := bind_ok h1
  cases h1
  exact ⟨p, r, State.packet_ok hp, fieldOf_ok hr, rfl⟩

/-! ### Codec commands -/

theorem execDecode_next {sa : SlotId} {lay : Layout} {s t : State} (h : execDecode sa lay s = .next t) :
    Ended s t (∃ o, decodePacket lay s.rx = o ∧ t = (s.setSlot sa o).setV o.isSome) := by
  refine command_next h fun h => ⟨_, rfl, ?_⟩
  cases hd : decodePacket lay s.rx <;> rw [hd] at h <;> cases h <;> rfl

theorem execEncode_next {sa : SlotId} {s t : State} (h : execEncode sa s = .next t) :
    Ended s t (∃ p, s.slot sa = some p ∧ t = s.setTx (encodePacket p)) := by
  refine command_next h fun h1 => ?_
  obtain ⟨p, hp, h1⟩ := bind_ok h1
  cases h1
  exact ⟨p, State.packet_ok hp, rfl⟩

theorem execFget_next {sa : SlotId} {sel : BitVec 4} {s t : State} (h : execFget sa sel s = .next t) :
    Ended s t (∃ v, t = s.setRes v) := by
  refine command_next h fun h1 => ?_
  obtain ⟨p, -, h1⟩ := bind_ok h1
  obtain ⟨r, -, h1⟩ := bind_ok h1
  cases h1
  exact ⟨_, rfl⟩

theorem execFset_next {sa : SlotId} {sel : BitVec 4} {v : Word} {s t : State} (h : execFset sa sel v s = .next t) :
    Ended s t (∃ p r, s.slot sa = some p ∧ fieldAt p.lay sel = some r ∧ v.toNat < 2 ^ (8 * r.size) ∧
      t = s.setSlot sa (some (p.fset r v))) := by
  refine command_next h fun h1 => ?_
  obtain ⟨p, hp, h1⟩ := bind_ok h1
  obtain ⟨r, hr, h1⟩ := bind_ok h1
  obtain ⟨x, hx, h1⟩ := bind_ok h1
  obtain ⟨rfl, hv⟩ := operand_ok hx
  cases h1
  exact ⟨p, r, State.packet_ok hp, fieldOf_ok hr, hv, rfl⟩

theorem execPaylen_next {sa : SlotId} {s t : State} (h : execPaylen sa s = .next t) : Ended s t (∃ v, t = s.setRes v) := by
  refine command_next h fun h1 => ?_
  obtain ⟨p, -, h1⟩ := bind_ok h1
  cases h1
  exact ⟨_, rfl⟩

theorem execPcopy_next {sa sb : SlotId} {s t : State} (h : execPcopy sa sb s = .next t) :
    Ended s t (∃ p, s.slot sb = some p ∧ t = s.setSlot sa (some p)) := by
  refine command_next h fun h1 => ?_
  obtain ⟨p, hp, h1⟩ := bind_ok h1
  cases h1
  exact ⟨p, State.packet_ok hp, rfl⟩

theorem execPclr_next {sa : SlotId} {s t : State} (h : execPclr sa s = .next t) : Ended s t (t = s.setSlot sa none) :=
  command_next h fun h => by cases h; rfl

theorem execPayrx_next {sa : SlotId} {s t : State} (h : execPayrx sa s = .next t) :
    Ended s t (∃ p, s.slot sa = some p ∧ t = s.setRx p.pay) := by
  refine command_next h fun h1 => ?_
  obtain ⟨p, hp, h1⟩ := bind_ok h1
  cases h1
  exact ⟨p, State.packet_ok hp, rfl⟩

theorem execTxpay_next {sa : SlotId} {s t : State} (h : execTxpay sa s = .next t) :
    Ended s t (∃ p, s.slot sa = some p ∧ headerSize p.lay + s.tx.length ≤ Config.maxBuf ∧
      t = s.setSlot sa (some ⟨p.lay, p.hdr, s.tx⟩)) := by
  refine command_next h fun h1 => ?_
  obtain ⟨p, hp, h1⟩ := bind_ok h1
  split at h1
  · cases h1
  · cases h1
    exact ⟨p, State.packet_ok hp, by omega, rfl⟩

theorem execPtrace_next {sa : SlotId} {s t : State} (h : execPtrace sa s = .next t) :
    Ended s t (∃ p, s.slot sa = some p ∧ t = s.traceAll (if s.traceEn then [dPkt p] else [])) := by
  refine command_next h fun h1 => ?_
  obtain ⟨p, hp, h1⟩ := bind_ok h1
  cases h1
  exact ⟨p, State.packet_ok hp, rfl⟩

/-! ### Response commands -/

theorem execRespond_next {sa sb : SlotId} {s t : State} (h : execRespond sa sb s = .next t) :
    Ended s t (∃ p cfg, s.slot sa = some p ∧ p.lay = .arp ∧ s.config = .ok cfg ∧
      t = s.applyResponse sb (respondArp p cfg)) := by
  refine command_next h fun h1 => ?_
  obtain ⟨p, hp, h1⟩ := bind_ok h1
  split at h1
  · cases h1
  · rename_i hl
    obtain ⟨cfg, hc, h1⟩ := bind_ok h1
    cases h1
    exact ⟨p, cfg, State.packet_ok hp, by simpa using hl, hc, rfl⟩

theorem execDispatch_next {lay : Layout} {s t : State} (h : execDispatch lay s = .next t) :
    Ended s t (∃ cfg r, s.config = .ok cfg ∧ dispatchResult lay s.rx cfg = .ok r ∧ tooLong r.ems = false ∧
      t = s.applyDispatch r) := by
  unfold execDispatch at h
  cases hf : s.st.f with
  | true =>
    rw [if_pos hf] at h
    cases h
    exact .inl ⟨hf, rfl⟩
  | false =>
    rw [if_neg (by simp [hf])] at h
    cases hc : s.config with
    | error c =>
      rw [hc] at h
      cases h
      exact .inr (.inl ⟨hf, c, State.takeFault_of_noFault hf c⟩)
    | ok cfg =>
      obtain ⟨r, hr⟩ := dispatchResult_ok lay s.rx cfg
      rw [hc] at h
      dsimp only at h
      rw [hr] at h
      dsimp only at h
      split at h
      · cases h
        exact .inr (.inl ⟨hf, .elen, State.takeFault_of_noFault hf .elen⟩)
      · rename_i ht
        cases h
        exact .inr (.inr ⟨hf, cfg, r, rfl, hr, by simpa using ht, rfl⟩)

theorem execEmit_next {s t : State} (h : execEmit s = .next t) : Ended s t (t = (s.emitAll [[s.tx]]).setE true) :=
  command_next h fun h => by cases h; rfl

end Sys2Proof.Machine
end

