-- ==== Sys2Proof/Machine/Text.lean ====
section
/-! DEFINITION. Text the spec describes and no step uses: the default rendering of trace events (40_primitives.md R97), and the
assembler's form of a command (30_encoding.md R77). -/

namespace Sys2Proof.Machine

/-- A hexadecimal digit, upper case. -/
def hexDigit (n : Nat) : Char := "0123456789ABCDEF".toList.getD n '0'

/-- The last `digits` hexadecimal digits of a number. -/
def hexText : Nat → Nat → String
  | 0, _ => ""
  | digits + 1, n => hexText digits (n / 16) ++ String.singleton (hexDigit (n % 16))

/-- A byte as two hexadecimal digits. -/
def byteText (b : Byte) : String := hexText 2 b.toNat

/-- A link address: two-digit groups joined by `:`. -/
def macText (b : Bytes) : String := String.intercalate ":" (b.map byteText)

/-- A network address: decimal numbers joined by `.`. -/
def ipText (b : Bytes) : String := String.intercalate "." (b.map fun x => toString x.toNat)

/-- A layout's name. -/
def layoutText : Layout → String
  | .arp => "ARP"
  | .eth => "ETH"
  | .ip4 => "IP4"

/-- A field's bytes by its kind. -/
def fieldText : Kind → Bytes → String
  | .u8, b => byteText (b.getD 0 0)
  | .n16, b => hexText 4 (be16 b)
  | .mac, b => macText b
  | .ip4, b => ipText b

/-- `TRACE_RENDER`, default (00_scope.md R8, 40_primitives.md R97).  The spec gives a dump's parts and their order and no
separator: one space (log entry 9). -/
def TraceEvent.text : TraceEvent → String
  | .u8 v => byteText v
  | .n16 v => hexText 4 v.toNat
  | .mac b => macText b
  | .ip4 b => ipText b
  | .pkt lay hdr paylen => String.intercalate " "
      (layoutText lay :: (fieldTable lay).map (fun r => fieldText r.kind (memRead hdr r.off r.size)) ++ [toString paylen])

/-! ### The assembler's form (30_encoding.md R77) -/

/-- `P0` to `P3`. -/
def slotText : SlotId → String
  | .p0 => "P0"
  | .p1 => "P1"
  | .p2 => "P2"
  | .p3 => "P3"

/-- A register's name. -/
def csrText : Csr → String
  | .ctl => "CTL"
  | .st => "ST"
  | .fcause => "FCAUSE"
  | .lmac => "LMAC"
  | .lip => "LIP"
  | .rxlen => "RXLEN"
  | .txlen => "TXLEN"

/-- A number as an immediate. -/
def numText (v : Word) : String := "#0x" ++ hexText 16 v.toNat

/-- A link address as an immediate; an operand wider than 48 bits is written as a number. -/
def macImm (v : Word) : String :=
  if fits 48 v then "#" ++ macText (Mac.ofBits (v.setWidth 48)).toBytes else numText v

/-- A network address as an immediate; an operand wider than 32 bits is written as a number. -/
def ipImm (v : Word) : String :=
  if fits 32 v then "#" ++ ipText (Ip4.ofBits (v.setWidth 32)).toBytes else numText v

/-- A field's name in the layout the programmer states the slot to hold; a selector with no row is written by number. -/
def selText (lay : Layout) (sel : BitVec 4) : String :=
  match fieldAt lay sel with
  | some r => r.name
  | none => "#sel=" ++ toString sel.toNat

/-- An immediate for a field: an address for a field of an address kind, else a number. -/
def fieldImm (lay : Layout) (sel : BitVec 4) (v : Word) : String :=
  match (fieldAt lay sel).map FieldRow.kind with
  | some .mac => macImm v
  | some .ip4 => ipImm v
  | some .u8 => numText v
  | some .n16 => numText v
  | none => numText v

/-- A comparand, its immediate written by `imm`. -/
def cmpText (imm : Word → String) : Comparand → String
  | .wdata v => imm v
  | .localAddr => "LOCAL"
  | .bcast => "BCAST"
  | .zero => "ZERO"

/-- A mnemonic and its operands separated by commas. -/
def asmLine (mnemonic : String) (operands : List String) : String :=
  if operands.isEmpty then mnemonic else mnemonic ++ " " ++ String.intercalate ", " operands

/-- The textual form of a command, the programmer stating the layout each slot holds (30_encoding.md R77).  The two `arp_oper`
rows have no textual form: their names stand for them. -/
def asmText (layOf : SlotId → Layout) : Instr → String
  | .nop => asmLine "NOP" []
  | .csrr csr => asmLine "CSRR" [csrText csr]
  | .csrw .lmac v => asmLine "CSRW" [csrText .lmac, macImm v]
  | .csrw .lip v => asmLine "CSRW" [csrText .lip, ipImm v]
  | .csrw csr v => asmLine "CSRW" [csrText csr, numText v]
  | .swap16 v => asmLine "SWAP16" [numText v]
  | .n16set v => asmLine "N16SET" [numText v]
  | .n16get => asmLine "N16GET" []
  | .n16ldr v => asmLine "N16LDR" [numText v]
  | .n16str => asmLine "N16STR" []
  | .n16d => asmLine "N16D" []
  | .maceq sa sel cmp => asmLine "MACEQ" [slotText sa, selText (layOf sa) sel, cmpText macImm cmp]
  | .ipeq sa sel cmp => asmLine "IPEQ" [slotText sa, selText (layOf sa) sel, cmpText ipImm cmp]
  | .ftrace sa sel => asmLine "FTRACE" [slotText sa, selText (layOf sa) sel]
  | .decode sa lay => asmLine "DECODE" [slotText sa, layoutText lay]
  | .encode sa => asmLine "ENCODE" [slotText sa]
  | .fget sa sel => asmLine "FGET" [slotText sa, selText (layOf sa) sel]
  | .fset sa sel v => asmLine "FSET" [slotText sa, selText (layOf sa) sel, fieldImm (layOf sa) sel v]
  | .paylen sa => asmLine "PAYLEN" [slotText sa]
  | .pcopy sa sb => asmLine "PCOPY" [slotText sa, slotText sb]
  | .pclr sa => asmLine "PCLR" [slotText sa]
  | .payrx sa => asmLine "PAYRX" [slotText sa]
  | .txpay sa => asmLine "TXPAY" [slotText sa]
  | .ptrace sa => asmLine "PTRACE" [slotText sa]
  | .respond sa sb => asmLine "RESPOND" [slotText sa, slotText sb]
  | .dispatch lay => asmLine "DISPATCH" [layoutText lay]
  | .emit => asmLine "EMIT" []
  | .arpRequest => asmLine "ARP_REQUEST" []
  | .arpReply => asmLine "ARP_REPLY" []

end Sys2Proof.Machine
end

