-- ==== Sys2Proof/Tests/Slice0.lean ====
section
/-! SUPPORT. Tests: expected results are those of spec/95_test_vectors.md (the vector or table is named), or worked out from the
encoding tables of 30_encoding.md by hand. -/

namespace Sys2Proof.Tests

open Sys2Proof.Machine

/-! ### Small states -/

/-- Vector V1, the ARP request of 95_test_vectors.md section 2.2. -/
def v1 : Bytes :=
  [0x00, 0x01, 0x08, 0x00, 0x06, 0x04, 0x00, 0x01, 0xBB, 0xBB, 0xBB, 0xBB, 0xBB, 0xBB, 0x0A, 0x00, 0x00, 0x02,
    0x00, 0x00, 0x00, 0x00, 0x00, 0x00, 0x0A, 0x00, 0x00, 0x01]

/-- The reply R1 of section 2.3. -/
def r1 : Bytes :=
  [0x00, 0x01, 0x08, 0x00, 0x06, 0x04, 0x00, 0x02, 0xAA, 0xAA, 0xAA, 0xAA, 0xAA, 0xAA, 0x0A, 0x00, 0x00, 0x01,
    0xBB, 0xBB, 0xBB, 0xBB, 0xBB, 0xBB, 0x0A, 0x00, 0x00, 0x02]

/-- Vector V7 of section 2.3: nonsense in `htype`, `ptype`, `hlen`, `plen`, and one payload byte. -/
def v7 : Bytes :=
  [0xFF, 0xFF, 0x12, 0x34, 0x00, 0xFF, 0x00, 0x01, 0xBB, 0xBB, 0xBB, 0xBB, 0xBB, 0xBB, 0x0A, 0x00, 0x00, 0x02,
    0x01, 0x02, 0x03, 0x04, 0x05, 0x06, 0x0A, 0x00, 0x00, 0x01, 0x77]

/-- The reply R7. -/
def r7 : Bytes :=
  [0xFF, 0xFF, 0x12, 0x34, 0x00, 0xFF, 0x00, 0x02, 0xAA, 0xAA, 0xAA, 0xAA, 0xAA, 0xAA, 0x0A, 0x00, 0x00, 0x01,
    0xBB, 0xBB, 0xBB, 0xBB, 0xBB, 0xBB, 0x0A, 0x00, 0x00, 0x02, 0x77]

/-- Vector V8: byte `i` is `i`, 30 bytes. -/
def v8 : Bytes := (List.range 30).map (BitVec.ofNat 8)

/-- The padding of vector V9. -/
def padding : Bytes := List.replicate 18 0

/-- The frame F of vector V9. -/
def frameF : Bytes :=
  [0xFF, 0xFF, 0xFF, 0xFF, 0xFF, 0xFF, 0xBB, 0xBB, 0xBB, 0xBB, 0xBB, 0xBB, 0x08, 0x06] ++ v1 ++ padding

/-- The frame G of vector V9. -/
def frameG : Bytes :=
  [0xBB, 0xBB, 0xBB, 0xBB, 0xBB, 0xBB, 0xAA, 0xAA, 0xAA, 0xAA, 0xAA, 0xAA, 0x08, 0x06] ++ r1 ++ padding

/-- Vector V12: an IPv4 packet in an Ethernet frame. -/
def v12 : Bytes :=
  [0xAA, 0xAA, 0xAA, 0xAA, 0xAA, 0xAA, 0xBB, 0xBB, 0xBB, 0xBB, 0xBB, 0xBB, 0x08, 0x00,
    0x45, 0x00, 0x00, 0x1C, 0x00, 0x01, 0x00, 0x00, 0x40, 0x01, 0x00, 0x00, 0x0A, 0x00, 0x00, 0x02,
    0x0A, 0x00, 0x00, 0x01, 0x08, 0x00, 0xF7, 0xFF, 0x00, 0x00, 0x00, 0x00]

/-- `AA:AA:AA:AA:AA:AA`. -/
def macA : Mac := ⟨0xAA, 0xAA, 0xAA, 0xAA, 0xAA, 0xAA⟩

/-- `10.0.0.1`. -/
def ip1 : Ip4 := ⟨0x0A, 0x00, 0x00, 0x01⟩

/-- Configured, with `b` in `RX` and tracing as said. -/
def withRx (b : Bytes) (tr : Bool) : State :=
  { State.reset with rx := b, lmac := some macA, lip := some ip1, traceEn := tr }

/-- Configured, with a packet of layout `lay` decoded from `b` in `P0`. -/
def withP0 (lay : Layout) (b : Bytes) : State :=
  { withRx [] false with slots := { State.reset.slots with p0 := decodePacket lay b } }

/-- The state an outcome goes on with; the reset state where it stops. -/
def after (o : Out) : State :=
  match o with
  | .next t => t
  | .fault _ => State.reset
  | .refused _ => State.reset

/-- Does the outcome go on? -/
def goesOn (o : Out) : Bool :=
  match o with
  | .next _ => true
  | .fault _ => false
  | .refused _ => false

/-- The state after the host presents `(cw, wdata)`. -/
def present (cw : Half) (wdata : Word) (s : State) : State := after (step { s with moves := [.command cw wdata] })

/-! ### Well-formedness: an ill-formed term for each check -/

theorem test_wf_refuses_read_only_csr : (Instr.csrw .st 0).wf = false := by decide

theorem test_wf_refuses_arp_request : Instr.arpRequest.wf = false := by decide

theorem test_wf_refuses_arp_reply : Instr.arpReply.wf = false := by decide

theorem test_wf_accepts_csrw_lmac : (Instr.csrw .lmac 0).wf = true := by decide

/-! ### Decoding: words written out from 30_encoding.md R70, R72 (sel, sb, sa, op) and 95_test_vectors.md section 2.5 -/

theorem test_decode_nop : decode 0b0000_00_00_00000000#16 7 = .ok .nop := by decide
theorem test_decode_csrr_txlen : decode 0b0110_00_00_00000001#16 0 = .ok (.csrr .txlen) := by decide
theorem test_decode_csrw_lmac : decode 0b0011_00_00_00000010#16 5 = .ok (.csrw .lmac 5) := by decide
theorem test_decode_csrw_lip : decode 0x4002 5 = .ok (.csrw .lip 5) := by decide
theorem test_decode_swap16 : decode 0b0000_00_00_00010000#16 5 = .ok (.swap16 5) := by decide
theorem test_decode_n16set : decode 0b0000_00_00_00010001#16 5 = .ok (.n16set 5) := by decide
theorem test_decode_n16get : decode 0b0000_00_00_00010010#16 5 = .ok .n16get := by decide
theorem test_decode_n16ldr : decode 0b0000_00_00_00010011#16 5 = .ok (.n16ldr 5) := by decide
theorem test_decode_n16str : decode 0b0000_00_00_00010100#16 5 = .ok .n16str := by decide
theorem test_decode_n16d : decode 0b0000_00_00_00010101#16 5 = .ok .n16d := by decide
theorem test_decode_maceq_wdata : decode 0b0101_00_00_00010110#16 9 = .ok (.maceq .p0 5 (.wdata 9)) := by decide
theorem test_decode_maceq_bcast : decode 0b0111_10_01_00010110#16 9 = .ok (.maceq .p1 7 .bcast) := by decide
theorem test_decode_ipeq_local : decode 0b1000_01_00_00010111#16 9 = .ok (.ipeq .p0 8 .localAddr) := by decide
theorem test_decode_ipeq_zero : decode 0x4C17 9 = .ok (.ipeq .p0 4 .zero) := by decide
theorem test_decode_ftrace : decode 0b0110_00_10_00011000#16 0 = .ok (.ftrace .p2 6) := by decide
theorem test_decode_decode_ip4 : decode 0b0010_00_11_00100000#16 0 = .ok (.decode .p3 .ip4) := by decide
theorem test_decode_decode_eth : decode 0x1120 0 = .ok (.decode .p1 .eth) := by decide
theorem test_decode_encode : decode 0b0000_00_10_00100001#16 0 = .ok (.encode .p2) := by decide
theorem test_decode_fget : decode 0b1111_00_00_00100010#16 0 = .ok (.fget .p0 15) := by decide
theorem test_decode_fset : decode 0b0100_00_01_00100011#16 2 = .ok (.fset .p1 4 2) := by decide
theorem test_decode_paylen : decode 0b0000_00_01_00100100#16 0 = .ok (.paylen .p1) := by decide
theorem test_decode_pcopy : decode 0b0000_01_10_00100101#16 0 = .ok (.pcopy .p2 .p1) := by decide
theorem test_decode_pclr : decode 0b0000_00_10_00100110#16 0 = .ok (.pclr .p2) := by decide
theorem test_decode_payrx : decode 0b0000_00_11_00100111#16 0 = .ok (.payrx .p3) := by decide
theorem test_decode_txpay : decode 0b0000_00_10_00101000#16 0 = .ok (.txpay .p2) := by decide
theorem test_decode_ptrace : decode 0b0000_00_00_00101001#16 0 = .ok (.ptrace .p0) := by decide
theorem test_decode_respond : decode 0b0000_01_00_00110000#16 0 = .ok (.respond .p0 .p1) := by decide
theorem test_decode_dispatch : decode 0b0001_00_00_00110001#16 0 = .ok (.dispatch .eth) := by decide
theorem test_decode_emit : decode 0b0000_00_00_00110010#16 0 = .ok .emit := by decide

/-- The illegal words of section 2.5. -/
theorem test_illegal_unused_field :
    [0x0100, 0x4020, 0x0420, 0x0101, 0x1430, 0x0131, 0x0432].map (fun w => decode w 0) =
      List.replicate 7 (.error .unusedField) := by decide

theorem test_illegal_unassigned :
    [0x0003, 0x0019, 0x002A, 0x0033, 0x00FF].map (fun w => decode w 0) =
      List.replicate 5 (.error .unassignedOp) := by decide

theorem test_illegal_layout : decode 0x3020 0 = .error .reservedLayout := by decide
theorem test_illegal_csr : decode 0x7001 0 = .error .reservedCsr := by decide
theorem test_illegal_read_only : decode 0x1002 0 = .error .readOnlyCsr := by decide

/-- The host's numbering of a table row's word. -/
theorem test_decodeTableWord : decodeTableWord 16 0x6018 = some (.ftrace .p0 6) := by decide

/-- `step` runs the placed instruction as its first. -/
theorem test_withFetchWord :
    (after (step (State.reset.withFetchWord 16 0x0032))).emits = [[[]]] := by decide

theorem test_arp_oper_codes :
    [ArpOper.ofCode 1, ArpOper.ofCode 2, ArpOper.ofCode 256, ArpOper.ofCode 0] =
      [some .request, some .reply, none, none] := by decide

/-! ### System commands (section 2.5, PR6) -/

theorem test_nop : present 0x0000 5 State.reset = { State.reset with pc := 1 } := by decide

/-- After `CFGMAC`, `CFGIP`, `TRACEON`, `CSRR CTL` leaves 7 (43_system.md R182). -/
theorem test_csrr_ctl : (present 0x0001 0 (withRx [] true)).res = 7 := by decide

/-- `CSRR LMAC` straight after reset: `ECFG`, code 6. -/
theorem test_csrr_lmac_unwritten : fcauseCode (present 0x3001 0 State.reset) = 6 := by decide

theorem test_csrw_lip : (present 0x4002 0x0A000001 State.reset).lip = some ip1 := by decide

theorem test_csrw_ctl_wide : fcauseCode (present 0x0002 2 State.reset) = 5 := by decide

/-- PR6: `CSRR ST` after a fault leaves 8. -/
theorem test_csrr_st_halted : (present 0x1001 0 (present 0x4022 0 State.reset)).res = 8 := by decide

/-- PR6: a halted unit ignores `N16SET`. -/
theorem test_halted_ignores : (present 0x0011 5 (present 0x4022 0 State.reset)).n = ⟨0, 0⟩ := by decide

/-- A halted unit keeps the first cause when an illegal word follows. -/
theorem test_halted_illegal : fcauseCode (present 0x0003 0 (present 0x4022 0 State.reset)) = 2 := by decide

/-! ### Primitives (section 2.1) -/

theorem test_swap16 : (present 0x0010 0x1234 State.reset).res = 0x3412 := by decide

theorem test_swap16_wide : fcauseCode (present 0x0010 0x10000 State.reset) = 5 := by decide

theorem test_n16set : (present 0x0011 0x00FF State.reset).n = ⟨0x00, 0xFF⟩ := by decide

theorem test_n16get : (present 0x0012 0 { State.reset with n := ⟨0x34, 0x12⟩ }).res = 0x3412 := by decide

theorem test_n16ldr : (present 0x0013 0x1234 State.reset).n = ⟨0x34, 0x12⟩ := by decide

theorem test_n16str : (present 0x0014 0 { State.reset with n := ⟨0x34, 0x12⟩ }).res = 0x1234 := by decide

theorem test_n16d : (present 0x0015 0 { State.reset with n := ⟨0x34, 0x12⟩ }).trace = [.n16 0x3412] := by decide

theorem test_maceq_first_byte : (present 0x5016 0x3BBBBBBBBBBB (withP0 .arp v1)).st.z = false := by decide

theorem test_maceq_equal : (present 0x5016 0xBBBBBBBBBBBB (withP0 .arp v1)).st.z = true := by decide

theorem test_ipeq_local : (present 0x8417 0 (withP0 .arp v1)).st.z = true := by decide

theorem test_ipeq_kind : fcauseCode (present 0x4C17 0 (withP0 .arp v1)) = 4 := by decide

theorem test_ftrace : (present 0x6018 0 (withP0 .arp v1)).trace = [.ip4 [0x0A, 0x00, 0x00, 0x02]] := by decide

/-! ### Codec (section 2.2) -/

/-- V3: 27 bytes are no ARP packet, and the old packet is lost. -/
theorem test_decode_short : (present 0x0020 0 { withP0 .arp v1 with rx := v1.take 27 }).slots.p0 = none := by decide

/-- V8 under ETH: the payload starts at offset 14. -/
theorem test_decode_eth_payload :
    (present 0x1120 0 (withRx v8 false)).slots.p1 = some ⟨.eth, v8.take 14, v8.drop 14⟩ := by decide

theorem test_encode : (present 0x0021 0 (withP0 .arp v8)).tx = v8 := by decide

theorem test_fget_dst_mac : (present 0x7022 0 (withP0 .arp v8)).res = 0x121314151617 := by decide

/-- V8 under IP4: `csum` is 0x0A0B. -/
theorem test_fget_ip4_csum : (present 0x7022 0 (withP0 .ip4 v8)).res = 0x0A0B := by decide

theorem test_fset_src_ip :
    ((present 0x6023 0xC0A80109 (withP0 .arp v1)).slot .p0).map (fun p => memRead p.hdr 12 8) =
      some [0xBB, 0xBB, 0xC0, 0xA8, 0x01, 0x09, 0x00, 0x00] := by decide

theorem test_fset_priority : fcauseCode (present 0xC023 0x1000000000000000 (withP0 .arp v1)) = 4 := by decide

theorem test_paylen : (present 0x0024 0 (withP0 .ip4 v8)).res = 10 := by decide

theorem test_pcopy : (present 0x0125 0 (withP0 .arp v1)).slots.p1 = (withP0 .arp v1).slots.p0 := by decide

theorem test_pcopy_empty : fcauseCode (present 0x0125 0 State.reset) = 2 := by decide

theorem test_pclr : (present 0x0026 0 (withP0 .arp v1)).slots.p0 = none := by decide

theorem test_payrx : (present 0x0027 0 (withP0 .eth frameF)).rx = frameF.drop 14 := by decide

/-- `TXPAY` on an ARP slot with a 4-byte `TX`: 32 bytes fit every `MAXBUF`. -/
theorem test_txpay : (present 0x0028 0 { withP0 .arp v1 with tx := [1, 2, 3, 4] }).slot .p0 =
    some ⟨.arp, v1, [1, 2, 3, 4]⟩ := by decide

theorem test_ptrace_on :
    (present 0x0029 0 { withP0 .arp v1 with traceEn := true }).trace = [.pkt .arp v1 0] := by decide

theorem test_ptrace_off : (present 0x0029 0 (withP0 .arp v1)).trace = [] := by decide

/-! ### Response (sections 2.3, 2.4) -/

theorem test_respond_v1 : (present 0x0430 0 (withP0 .arp v1)).emits = [[r1]] := by decide

theorem test_respond_v7 : (present 0x0430 0 (withP0 .arp v7)).emits = [[r7]] := by decide

/-- V6: `oper` is 256, not 1. -/
theorem test_respond_v6 :
    (present 0x0430 0 (withP0 .arp (memWrite v1 6 [0x01, 0x00]))).emits = [] := by decide

/-- V4b: ARP accepts no broadcast. -/
theorem test_respond_v4b :
    (present 0x0430 0 (withP0 .arp (memWrite v1 24 [0xFF, 0xFF, 0xFF, 0xFF]))).emits = [] := by decide

theorem test_respond_elay : fcauseCode (present 0x0430 0 (withP0 .eth v8)) = 3 := by decide

/-- What nested dispatch answers on a buffer, with the local addresses of the vectors. -/
def dispatched (lay : Layout) (b : Bytes) (tr : Bool) : Handled :=
  match dispatchResult lay b ⟨macA, ip1, tr⟩ with
  | .ok h => h
  | .error _ => ⟨[[[]]], []⟩

/-- V9. -/
theorem test_dispatch_v9 :
    dispatched .eth frameF true = ⟨[[frameG]], [.pkt .eth (frameF.take 14) 46, .pkt .arp v1 18]⟩ := by decide

/-- V10: an accepted frame of an unregistered type. -/
theorem test_dispatch_v10 :
    dispatched .eth (memWrite frameF 12 [0x86, 0xDD]) true =
      ⟨[], [.pkt .eth (memWrite (frameF.take 14) 12 [0x86, 0xDD]) 46]⟩ := by decide

/-- V12. -/
theorem test_dispatch_v12 :
    dispatched .eth v12 true =
      ⟨[], [.pkt .eth (v12.take 14) 28, .pkt .ip4 (memRead v12 14 20) 8]⟩ := by decide

/-- V11: another station's frame. -/
theorem test_dispatch_v11 : dispatched .eth (memWrite frameF 0 (List.replicate 6 0xCC)) true = ⟨[], []⟩ := by decide

/-- V13b: the inner buffer is one byte short. -/
theorem test_dispatch_v13b : dispatched .eth (frameF.take 41) true = ⟨[], [.pkt .eth (frameF.take 14) 27]⟩ := by decide

/-- `DISPATCH ETH` on V9 appends `[G]` to `EMITS`. -/
theorem test_dispatch_emits : (present 0x1031 0 (withRx frameF false)).emits = [[frameG]] := by decide

theorem test_dispatch_unconfigured : fcauseCode (present 0x1031 0 State.reset) = 6 := by decide

theorem test_emit : (present 0x0032 0 { State.reset with tx := [1, 2] }).emits = [[[1, 2]]] := by decide

/-- The host's own tables of codes are no commands. -/
theorem test_arp_rows_refused : (goesOn (exec .arpRequest State.reset), goesOn (exec .arpReply State.reset)) =
    (false, false) := by decide

/-! ### Host moves -/

theorem test_reset_unhalts :
    after (step { present 0x0003 0 State.reset with moves := [.reset] }) = { State.reset with pc := 2 } := by decide

theorem test_load : (after (step { State.reset with moves := [.load [7]] })).rx = [7] := by decide

/-! ### Text (40_primitives.md R97, 30_encoding.md R77) -/

theorem test_trace_text : (TraceEvent.mac macA.toBytes).text = "AA:AA:AA:AA:AA:AA" := by decide

theorem test_asm_text : asmText (fun _ => .arp) (.ipeq .p0 6 (.wdata 0x0A000002)) = "IPEQ P0, src_ip, #10.0.0.2" := by decide

/-! ### Witnesses: states and operands that meet the hypotheses of each statement, each clause at a boundary of its range -/

/-- The state in which the host's next move is `m`. -/
def nextMove (m : Move) : State := { State.reset with moves := [m], pc := 3 }

/-- A halted and configured unit whose host's next move is `m`. -/
def haltedNext (m : Move) : State :=
  { withRx [] true with moves := [m], st := ⟨true, false, false, true⟩, fcause := some .elay }

/-- Another station's address in `dst_ip`. -/
def otherDst : Bytes := memWrite v1 24 [0x0A, 0x00, 0x00, 0x63]

/-- An ARP reply to the local address: `oper` is 2. -/
def replyIn : Bytes := memWrite v1 6 [0x00, 0x02]

theorem witness_ResetMoveRestoresTheResetState : (haltedNext .reset).moves = .reset :: [] := by decide

theorem witness_OnlyResetClearsHaltAndConfiguration :
    ∃ t, step (haltedNext (.command 0x0026 0)) = .next t ∧ (haltedNext (.command 0x0026 0)).moves.head? ≠ some .reset ∧
      (haltedNext (.command 0x0026 0)).st.f = true ∧ (haltedNext (.command 0x0026 0)).macv = true ∧
      (haltedNext (.command 0x0026 0)).ipv = true := ⟨_, rfl, by decide⟩

theorem witness_StepKeepsTheInvariant :
    ∃ t, { withP0 .arp v1 with moves := [.command 0x0430 0] }.Inv ∧
      step { withP0 .arp v1 with moves := [.command 0x0430 0] } = .next t := ⟨_, by decide, rfl⟩

theorem witness_StepRunsTheDecodedCommand :
    (nextMove (.command 0x0012 0)).moves = .command 0x0012 0 :: [] ∧ decode 0x0012 0 = .ok .n16get := by decide

theorem witness_StepFaultsOnIllegalWords :
    (nextMove (.command 0x0003 0)).moves = .command 0x0003 0 :: [] ∧ decode 0x0003 0 = .error .unassignedOp ∧
      (nextMove (.command 0x0003 0)).NoFault ∧ (haltedNext (.command 0x0003 0)).moves = .command 0x0003 0 :: [] ∧
      (haltedNext (.command 0x0003 0)).st.f = true := by decide

theorem witness_LoadReplacesTheReceiveBuffer :
    (nextMove (.load (List.replicate Config.maxBuf 0))).moves = .load (List.replicate Config.maxBuf 0) :: [] ∧
      (List.replicate Config.maxBuf (0 : Byte)).length ≤ Config.maxBuf ∧
      (nextMove (.load (List.replicate (Config.maxBuf + 1) 0))).moves =
        .load (List.replicate (Config.maxBuf + 1) 0) :: [] ∧
      Config.maxBuf < (List.replicate (Config.maxBuf + 1) (0 : Byte)).length :=
  ⟨rfl, by simp, rfl, by simp⟩

theorem witness_EveryMoveAdvancesTheHostIndex :
    (∃ t, (nextMove .reset).moves = .reset :: [] ∧ step (nextMove .reset) = .next t) ∧
      (haltedNext .observe).moves = .observe :: [] ∧ State.reset.moves = [] :=
  ⟨⟨_, rfl, rfl⟩, rfl, rfl⟩

theorem witness_DecodeOfEncode : (Instr.csrw .lip (-1)).wf = true ∧ (Instr.maceq .p3 15 .zero).wf = true := by decide

theorem witness_EncodeOfDecode : decode 0xFF16 7 = .ok (.maceq .p3 15 .zero) := by decide

/-- Each clause has a word, and no other clause takes it in. -/
theorem witness_IllegalWordsAreThoseOfTheRule :
    (opRows.all fun r => !r.covers 0x0100) = true ∧ (opBits 0x3020 = 0x20 ∧ layBits 0x3020 = 3) ∧
      (opBits 0x3031 = 0x31 ∧ layBits 0x3031 = 3) ∧ (opBits 0x7001 = 0x01 ∧ 7 ≤ (selBits 0x7001).toNat) ∧
      (opBits 0xF002 = 0x02 ∧ 7 ≤ (selBits 0xF002).toNat) ∧ (opBits 0x6002 = 0x02 ∧ selBits 0x6002 = 6) := by decide

theorem witness_OpcodeRowsAreDisjoint : opRows.length = 25 ∧ (opRows.any fun r => r.covers 0xFF22) = false ∧
    (opRows.any fun r => r.covers 0xF322) = true := by decide

theorem witness_NopChangesNothing : opBits 0x0100 = 0 ∧ (0x0100 : Half) ≠ 0 := by decide

theorem witness_CsrrReadsTheRegister :
    7 ≤ (7 : BitVec 4).toNat ∧ (withRx [] true).lmac = some macA ∧ (withRx [] true).lip = some ip1 ∧
      State.reset.lmac = none ∧ State.reset.lip = none := by decide

theorem witness_CsrwWritesTheRegister :
    State.reset.NoFault ∧ (1 : Word).toNat < 2 ∧ 2 ≤ (2 : Word).toNat ∧ (0xFFFFFFFFFFFF : Word).toNat < 2 ^ 48 ∧
      2 ^ 48 ≤ (0x1000000000000 : Word).toNat ∧ (0xFFFFFFFF : Word).toNat < 2 ^ 32 ∧
      2 ^ 32 ≤ (0x100000000 : Word).toNat ∧ Csr.ctl.writable = true ∧ Csr.rxlen.writable = false ∧
      7 ≤ (7 : BitVec 4).toNat := by decide

theorem witness_Swap16ExchangesTheBytes :
    State.reset.NoFault ∧ (0xFFFF : Word).toNat < 2 ^ 16 ∧ 2 ^ 16 ≤ (0x10000 : Word).toNat := by decide

theorem witness_N16CellIsLoaded :
    State.reset.NoFault ∧ (0xFFFF : Word).toNat < 2 ^ 16 ∧ 2 ^ 16 ≤ (0x10000 : Word).toNat := by decide

theorem witness_N16CellIsRead : State.reset.NoFault := by decide

theorem witness_N16dTracesTheValue : State.reset.NoFault := by decide

/-- `MACEQ` on a `MAC` field, on an `IP4` field, past the last row, and on an empty slot. -/
theorem witness_MaceqComparesALinkAddress :
    (withP0 .arp v1).NoFault ∧ (withP0 .arp v1).slot .p1 = none ∧ (withP0 .arp v1).slot .p0 = some ⟨.arp, v1, []⟩ ∧
      fieldAt .arp 5 = some Field.arpSrcMac ∧ Field.arpSrcMac.kind = .mac ∧ fieldAt .arp 8 = some Field.arpDstIp ∧
      Field.arpDstIp.kind ≠ .mac ∧ fieldAt .arp 9 = none := by decide

/-- `IPEQ` on an `IP4` field, on a `MAC` field, past the last row, and on an empty slot. -/
theorem witness_IpeqComparesANetworkAddress :
    (withP0 .arp v1).NoFault ∧ (withP0 .arp v1).slot .p1 = none ∧ (withP0 .arp v1).slot .p0 = some ⟨.arp, v1, []⟩ ∧
      fieldAt .arp 8 = some Field.arpDstIp ∧ Field.arpDstIp.kind = .ip4 ∧ fieldAt .arp 5 = some Field.arpSrcMac ∧
      Field.arpSrcMac.kind ≠ .ip4 ∧ fieldAt .arp 9 = none := by decide

theorem witness_FtraceTracesTheField :
    (withP0 .eth v8).NoFault ∧ (withP0 .eth v8).slot .p3 = none ∧
      (withP0 .eth v8).slot .p0 = some ⟨.eth, v8.take 14, v8.drop 14⟩ ∧ fieldAt .eth 2 = some Field.ethEtype ∧
      fieldAt .eth 3 = none := by decide

theorem witness_DecodeFillsTheSlot :
    (withRx (v1.take 27) false).NoFault ∧ (withRx (v1.take 27) false).rx.length < headerSize .arp ∧
      (withRx v1 false).NoFault ∧ headerSize .arp ≤ (withRx v1 false).rx.length := by decide

theorem witness_EncodeStagesThePacket :
    (withP0 .arp v1).NoFault ∧ (withP0 .arp v1).slot .p1 = none ∧
      (withP0 .arp v1).slot .p0 = some ⟨.arp, v1, []⟩ := by decide

theorem witness_FgetReadsTheField :
    (withP0 .ip4 v8).NoFault ∧ (withP0 .ip4 v8).slot .p1 = none ∧
      (withP0 .ip4 v8).slot .p0 = some ⟨.ip4, v8.take 20, v8.drop 20⟩ ∧ fieldAt .ip4 9 = some Field.ip4Dst ∧
      fieldAt .ip4 10 = none := by decide

theorem witness_FsetReplacesTheField :
    (withP0 .arp v1).NoFault ∧ (withP0 .arp v1).slot .p1 = none ∧ (withP0 .arp v1).slot .p0 = some ⟨.arp, v1, []⟩ ∧
      fieldAt .arp 9 = none ∧ fieldAt .arp 2 = some Field.arpHlen ∧
      2 ^ (8 * Field.arpHlen.size) ≤ (256 : Word).toNat ∧ (255 : Word).toNat < 2 ^ (8 * Field.arpHlen.size) := by decide

theorem witness_PaylenReadsThePayloadLength :
    (withP0 .arp v7).NoFault ∧ (withP0 .arp v7).slot .p1 = none ∧
      (withP0 .arp v7).slot .p0 = some ⟨.arp, v7.take 28, [0x77]⟩ := by decide

theorem witness_PcopyClonesThePacket :
    (withP0 .arp v1).NoFault ∧ (withP0 .arp v1).slot .p1 = none ∧
      (withP0 .arp v1).slot .p0 = some ⟨.arp, v1, []⟩ := by decide

theorem witness_PclrEmptiesTheSlot : (withP0 .arp v1).NoFault := by decide

theorem witness_PayrxHandsOverThePayload :
    (withP0 .arp v7).NoFault ∧ (withP0 .arp v7).slot .p1 = none ∧
      (withP0 .arp v7).slot .p0 = some ⟨.arp, v7.take 28, [0x77]⟩ := by decide

/-- `TX` one byte too long, and just short enough. -/
theorem witness_TxpayReplacesThePayload :
    (withP0 .arp v1).NoFault ∧ (withP0 .arp v1).slot .p1 = none ∧ (withP0 .arp v1).slot .p0 = some ⟨.arp, v1, []⟩ ∧
      Config.maxBuf < headerSize .arp + (List.replicate (Config.maxBuf - 27) (0 : Byte)).length ∧
      headerSize .arp + (List.replicate (Config.maxBuf - 28) (0 : Byte)).length ≤ Config.maxBuf := by
  have h := maxBuf_ge
  refine ⟨by decide, by decide, by decide, ?_, ?_⟩ <;> simp [headerSize] <;> omega

theorem witness_PtraceDumpsWhenTracing :
    (withP0 .arp v1).NoFault ∧ (withP0 .arp v1).slot .p1 = none ∧ (withP0 .arp v1).slot .p0 = some ⟨.arp, v1, []⟩ ∧
      (withP0 .arp v1).TraceOff ∧ State.TraceOn { withP0 .arp v1 with traceEn := true } := by decide

theorem witness_ResponseCommandsFaultInOrder :
    (withP0 .eth v8).NoFault ∧ (withP0 .eth v8).slot .p1 = none ∧
      (withP0 .eth v8).slot .p0 = some ⟨.eth, v8.take 14, v8.drop 14⟩ ∧
      { withP0 .arp v1 with lmac := none }.slot .p0 = some ⟨.arp, v1, []⟩ ∧
      State.macv { withP0 .arp v1 with lmac := none } = false ∧
      State.ipv { withP0 .arp v1 with lip := none } = false := by decide

theorem witness_RespondAnswersARequest :
    (withP0 .arp v1).NoFault ∧ (withP0 .arp v1).Configured macA ip1 ∧
      (withP0 .arp v1).slot .p0 = some ⟨.arp, v1, []⟩ ∧ v1.length = 28 ∧ memRead v1 24 4 = ip1.toBytes ∧
      memRead v1 6 2 = [0x00, 0x01] := by decide

theorem witness_RespondIgnoresOtherPackets :
    (withP0 .arp otherDst).NoFault ∧ (withP0 .arp otherDst).Configured macA ip1 ∧
      (withP0 .arp otherDst).slot .p0 = some ⟨.arp, otherDst, []⟩ ∧ otherDst.length = 28 ∧
      memRead otherDst 24 4 ≠ ip1.toBytes ∧ (withP0 .arp replyIn).slot .p0 = some ⟨.arp, replyIn, []⟩ ∧
      replyIn.length = 28 ∧ memRead replyIn 24 4 = ip1.toBytes ∧ memRead replyIn 6 2 ≠ [0x00, 0x01] := by decide

theorem witness_DispatchRunsTheReceivePath :
    (withRx frameF true).NoFault ∧ (withRx frameF true).Configured macA ip1 ∧
      (withRx frameF true).rx.length ≤ Config.maxBuf := by decide

/-- A buffer that decodes, and one that does not. -/
theorem witness_DispatchArpIsDecodeThenRespond :
    (withRx v1 true).NoFault ∧ (withRx v1 true).Configured macA ip1 ∧ (withRx v1 true).rx.length ≤ Config.maxBuf ∧
      (after (exec (.decode .p0 .arp) (withRx v1 true))).st.v = true ∧
      (after (exec (.decode .p0 .arp) (withRx [] true))).st.v = false := by decide

theorem witness_DispatchEthWrapsWhatArpEmits :
    (List.replicate 6 (0xFF : Byte)).length = 6 ∧ (List.replicate 6 (0xBB : Byte)).length = 6 ∧
      macA.toBytes.length = 6 ∧ dispatchResult .arp (v1 ++ padding) ⟨macA, ip1, true⟩ =
        .ok ⟨[[r1 ++ padding]], [.pkt .arp v1 18]⟩ := by decide

theorem witness_DispatchEmitsAtMostOneBuffer : memRead v12 12 2 = [0x08, 0x00] := by decide

theorem witness_EmitInvokesTheContinuationOnTx : State.reset.NoFault := by decide

theorem witness_HaltedUnitIgnoresCommands :
    (haltedNext .observe).st.f = true ∧ (Instr.dispatch .eth).wf = true ∧ Instr.nop.wf = true := by decide

theorem witness_FaultsArePrecise :
    State.reset.NoFault ∧ (∃ t, exec .n16get State.reset = .next t) ∧ ∃ t, exec (.encode .p0) State.reset = .next t :=
  ⟨by decide, ⟨_, rfl⟩, ⟨_, rfl⟩⟩

theorem witness_NoCommandStopsTheMachine :
    (Instr.dispatch .ip4).wf = true ∧
      step (nextMove (.load (List.replicate (Config.maxBuf + 1) 0))) = .refused .loadTooLong :=
  ⟨rfl, if_neg (by simp)⟩

theorem witness_NoContentOfRxFaults :
    (withP0 .arp v1).NoFault ∧ (withP0 .arp v1).Configured macA ip1 ∧ (withP0 .arp v1).rx.length ≤ Config.maxBuf ∧
      (withP0 .arp v1).slot .p0 = some ⟨.arp, v1, []⟩ := by decide

theorem witness_TracingChangesNothingElse :
    SameButTrace (withRx frameF false) { withRx frameF true with trace := [.u8 7] } ∧
      (Instr.dispatch .eth).wf = true ∧ Instr.dispatch .eth ≠ .csrr .ctl := by decide

theorem witness_HistoriesOnlyGrow :
    (∃ t, exec (.ptrace .p0) (withP0 .arp v1) = .next t) ∧ (withP0 .arp v1).TraceOff ∧
      writesE (.ptrace .p0) = false ∧ writesTrace .emit = false := ⟨⟨_, rfl⟩, by decide⟩

theorem witness_RegistersChangeOnlyByTheirCommands :
    (∃ t, exec (.pclr .p0) (withP0 .arp v1) = .next t) ∧ writesRes (.pclr .p0) = false ∧
      writesE (.pclr .p0) = false := ⟨⟨_, rfl⟩, by decide⟩

theorem witness_BuffersChangeOnlyByTheirCommands :
    (∃ t, exec (.pclr .p0) (withP0 .arp v1) = .next t) ∧ writesSlot .p1 (.pclr .p0) = false := ⟨⟨_, rfl⟩, by decide⟩

theorem witness_CommandsThatStoreNothingKeepMemory :
    storesNothing (.fget .p0 0) = true ∧ ∃ t, exec (.fget .p0 0) (withP0 .arp v1) = .next t := ⟨rfl, _, rfl⟩

/-- `FSET` of one field, and the bytes just before and just after it. -/
theorem witness_StoringCommandsKeepOtherBytes :
    (∃ t, exec (.fset .p0 2 6) (withP0 .arp v1) = .next t) ∧ (withP0 .arp v1).slot .p0 = some ⟨.arp, v1, []⟩ ∧
      v1.length = headerSize .arp ∧ fieldAt .arp 2 = some Field.arpHlen ∧ 3 < Field.arpHlen.off ∧
      Field.arpHlen.off + Field.arpHlen.size ≤ 5 ∧ (∃ t, exec (.n16set 1) State.reset = .next t) ∧
      (∃ t, exec (.n16ldr 1) State.reset = .next t) ∧ (∃ t, exec (.encode .p0) (withP0 .arp v1) = .next t) ∧
      (∃ t, exec (.payrx .p0) (withP0 .arp v1) = .next t) ∧ (∃ t, exec (.txpay .p0) (withP0 .arp v1) = .next t) ∧
      (∃ t, exec (.decode .p0 .arp) State.reset = .next t) ∧ (∃ t, exec (.pcopy .p1 .p0) (withP0 .arp v1) = .next t) ∧
      (∃ t, exec (.pclr .p0) State.reset = .next t) ∧ ∃ t, exec (.respond .p0 .p1) (withP0 .arp v1) = .next t :=
  ⟨⟨_, rfl⟩, by decide, by decide, by decide, by decide, by decide, ⟨_, rfl⟩, ⟨_, rfl⟩, ⟨_, rfl⟩, ⟨_, rfl⟩, ⟨_, rfl⟩,
    ⟨_, rfl⟩, ⟨_, rfl⟩, ⟨_, rfl⟩, _, rfl⟩

/-- A buffer one byte short and one that decodes; a refused, an unregistered and an IPv4 frame; a refused and an accepted packet. -/
theorem witness_NestedDispatchLayerByLayer :
    (v1.take 27).length < headerSize .arp ∧ decodePacket .arp v1 = some ⟨.arp, v1, []⟩ ∧
      14 ≤ (List.replicate 14 (0xCC : Byte)).length ∧
      memRead (List.replicate 14 (0xCC : Byte)) 0 6 ≠ macA.toBytes ∧
      memRead (List.replicate 14 (0xCC : Byte)) 0 6 ≠ List.replicate 6 0xFF ∧
      memRead (List.replicate 14 (0xFF : Byte)) 0 6 = List.replicate 6 0xFF ∧
      memRead (List.replicate 14 (0xFF : Byte)) 12 2 ≠ [0x08, 0x06] ∧
      memRead (List.replicate 14 (0xFF : Byte)) 12 2 ≠ [0x08, 0x00] ∧
      14 ≤ v12.length ∧ memRead v12 0 6 = macA.toBytes ∧ memRead v12 12 2 = [0x08, 0x00] ∧
      20 ≤ (List.replicate 20 (0 : Byte)).length ∧ memRead (List.replicate 20 (0 : Byte)) 16 4 ≠ ip1.toBytes ∧
      memRead (List.replicate 20 (0 : Byte)) 16 4 ≠ bcastIp.toBytes ∧ 20 ≤ (memRead v12 14 20).length ∧
      memRead (memRead v12 14 20) 16 4 = ip1.toBytes := by decide

theorem witness_CodecRoundTrip : (Packet.mk .arp v1 [0x77]).hdr.length = headerSize .arp := by decide

theorem witness_CodecPreservesEveryBuffer :
    (v1.take 27).length < headerSize .arp ∧ headerSize .arp ≤ v1.length := by decide

theorem witness_FieldAccessLaws :
    (Packet.mk .arp v1 []).hdr.length = headerSize .arp ∧ fieldAt .arp 5 = some Field.arpSrcMac ∧
      fieldAt .arp 8 = some Field.arpDstIp ∧ (0xFFFFFFFFFFFF : Word).toNat < 2 ^ (8 * Field.arpSrcMac.size) ∧
      (5 : BitVec 4) ≠ 8 ∧ 7 < Field.arpSrcMac.off ∧ Field.arpSrcMac.off + Field.arpSrcMac.size ≤ 14 := by decide

theorem witness_ArpResponseContract :
    v1.length = 28 ∧ Packet.fbytes ⟨.arp, otherDst, []⟩ Field.arpDstIp ≠ ip1.toBytes ∧
      Packet.fget ⟨.arp, replyIn, []⟩ Field.arpOper ≠ 1 ∧ Packet.fbytes ⟨.arp, v1, []⟩ Field.arpDstIp = ip1.toBytes ∧
      Packet.fget ⟨.arp, v1, []⟩ Field.arpOper = 1 := by decide

end Sys2Proof.Tests
end

section
/-! PROOFS. The statements about the state: what a step and a command can do to it, its frames, and the
invariant. -/

namespace Sys2Proof.Machine

/-! ### What a step does, move by move (43_system.md R180, R184 to R186) -/

/-- The state with the host's list left at `rest` and its index advanced (10_state.md R19). -/
def State.advanced (s : State) (rest : List Move) : State := { s with moves := rest, pc := s.pc + 1 }

theorem step_idle {s : State} (h : s.moves = []) : step s = .next s := by
  rw [step, State.fetch_nil h]
  rfl

theorem step_load {s : State} {b : Bytes} {rest : List Move} (h : s.moves = .load b :: rest) :
    step s = hostLoad b (s.advanced rest) := by
  rw [step, State.fetch_cons h]
  rfl

theorem step_observe {s : State} {rest : List Move} (h : s.moves = .observe :: rest) :
    step s = .next (s.advanced rest) := by
  rw [step, State.fetch_cons h]
  rfl

theorem step_reset {s : State} {rest : List Move} (h : s.moves = .reset :: rest) :
    step s = .next { State.reset with moves := rest, pc := s.pc + 1 } := by
  rw [step, State.fetch_cons h]
  rfl

theorem step_command_ok {s : State} {cw : Half} {wdata : Word} {rest : List Move} {i : Instr}
    (h : s.moves = .command cw wdata :: rest) (hd : decode cw wdata = .ok i) : step s = exec i (s.advanced rest) := by
  rw [step, State.fetch_cons h]
  simp only [hd]
  rfl

theorem step_command_error {s : State} {cw : Half} {wdata : Word} {rest : List Move} {e : Illegal}
    (h : s.moves = .command cw wdata :: rest) (hd : decode cw wdata = .error e) :
    step s = .next ((s.advanced rest).takeFault .ecmd) := by
  rw [step, State.fetch_cons h]
  simp only [hd]
  rfl

theorem hostLoad_next {b : Bytes} {s t : State} (h : hostLoad b s = .next t) :
    b.length ≤ Config.maxBuf ∧ t = s.setRx b := by
  unfold hostLoad at h
  split at h
  · cases h
    exact ⟨‹_›, rfl⟩
  · cases h

@[simp] theorem State.takeFault_moves (s : State) (c : Cause) : (s.takeFault c).moves = s.moves := by
  unfold State.takeFault
  split <;> rfl

@[simp] theorem State.takeFault_pc (s : State) (c : Cause) : (s.takeFault c).pc = s.pc := by
  unfold State.takeFault
  split <;> rfl

/-! ### What a command does -/

/-- `Ran s i t`: `t` is a state that the command `i` may lead to from `s`.  A halted unit ignores the command, a fault writes `F`
and `FCAUSE`, and every other constructor is one command's effect, with those of its guards that the frames and the invariant rest on
(a command's full conditions stand in its own `_next` lemma). -/
inductive Ran (s : State) : Instr → State → Prop where
  | ignored {i : Instr} (hf : s.st.f = true) : Ran s i s
  | faulted {i : Instr} (c : Cause) (hf : s.st.f = false) : Ran s i (s.faulted c)
  | nop : Ran s .nop s
  | res {i : Instr} (v : Word) (hi : writesRes i = true) : Ran s i (s.setRes v)
  | traceEn (v : Word) : Ran s (.csrw .ctl v) (s.setTraceEn (v.getLsbD 0))
  | lmac (v : Word) : Ran s (.csrw .lmac v) (s.setLmac (Mac.ofBits (v.setWidth 48)))
  | lip (v : Word) : Ran s (.csrw .lip v) (s.setLip (Ip4.ofBits (v.setWidth 32)))
  | n16set (v : Word) : Ran s (.n16set v) (s.setN (N16.ofValue (v.setWidth 16)))
  | n16ldr (v : Word) : Ran s (.n16ldr v) (s.setN (N16.ofRaw Config.hostOrder (v.setWidth 16)))
  | n16d : Ran s .n16d (s.traceAll [.n16 (BitVec.ofNat 16 s.n.get)])
  | maceq (sa : SlotId) (sel : BitVec 4) (cmp : Comparand) (z : Bool) : Ran s (.maceq sa sel cmp) (s.setZ z)
  | ipeq (sa : SlotId) (sel : BitVec 4) (cmp : Comparand) (z : Bool) : Ran s (.ipeq sa sel cmp) (s.setZ z)
  | ftrace {sa : SlotId} {sel : BitVec 4} {p : Packet} {r : FieldRow} (hp : s.slot sa = some p)
      (hr : fieldAt p.lay sel = some r) : Ran s (.ftrace sa sel) (s.traceAll [dField r.kind (p.fbytes r)])
  | decode (sa : SlotId) (lay : Layout) {o : Option Packet} (ho : decodePacket lay s.rx = o) :
      Ran s (.decode sa lay) ((s.setSlot sa o).setV o.isSome)
  | encode {sa : SlotId} {p : Packet} (hp : s.slot sa = some p) : Ran s (.encode sa) (s.setTx (encodePacket p))
  | fset {sa : SlotId} {sel : BitVec 4} (v : Word) {p : Packet} {r : FieldRow} (hp : s.slot sa = some p)
      (hr : fieldAt p.lay sel = some r) : Ran s (.fset sa sel v) (s.setSlot sa (some (p.fset r v)))
  | pcopy (sa : SlotId) {sb : SlotId} {p : Packet} (hp : s.slot sb = some p) :
      Ran s (.pcopy sa sb) (s.setSlot sa (some p))
  | pclr (sa : SlotId) : Ran s (.pclr sa) (s.setSlot sa none)
  | payrx {sa : SlotId} {p : Packet} (hp : s.slot sa = some p) : Ran s (.payrx sa) (s.setRx p.pay)
  | txpay {sa : SlotId} {p : Packet} (hp : s.slot sa = some p)
      (hlen : headerSize p.lay + s.tx.length ≤ Config.maxBuf) :
      Ran s (.txpay sa) (s.setSlot sa (some ⟨p.lay, p.hdr, s.tx⟩))
  | ptrace {sa : SlotId} {p : Packet} (hp : s.slot sa = some p) : Ran s (.ptrace sa) (s.traceAll (dumpIf s.traceEn p))
  | respondReply {sa : SlotId} (sb : SlotId) {p : Packet} {cfg : Cfg} (hp : s.slot sa = some p) (hl : p.lay = .arp) :
      Ran s (.respond sa sb) ((((s.traceAll (dumpIf s.traceEn p)).emitAll [[encodePacket (arpReplyPacket p cfg)]]).setSlot
        sb (some (arpReplyPacket p cfg))).setE true)
  | respondSilent {sa : SlotId} (sb : SlotId) {p : Packet} {evs : List TraceEvent} (hp : s.slot sa = some p)
      (hevs : evs = [] ∨ evs = dumpIf s.traceEn p) :
      Ran s (.respond sa sb) (((s.traceAll evs).emitAll []).setE false)
  | dispatch (lay : Layout) {cfg : Cfg} {r : Handled} (hc : s.config = .ok cfg)
      (hr : dispatchResult lay s.rx cfg = .ok r) (hlen : tooLong r.ems = false) :
      Ran s (.dispatch lay) (s.applyDispatch r)
  | emit : Ran s .emit ((s.emitAll [[s.tx]]).setE true)

/-- A command that ended has run, when its effect is one that `Ran` lists. -/
theorem Ended.ran {s t : State} {P : Prop} {i : Instr} (h : Ended s t P) (hP : P → Ran s i t) : Ran s i t := by
  rcases h with ⟨hf, rfl⟩ | ⟨hf, c, rfl⟩ | ⟨-, hp⟩
  · exact .ignored hf
  · exact .faulted c hf
  · exact hP hp

theorem execCsrr_ran {csr : Csr} {s t : State} (h : execCsrr csr s = .next t) : Ran s (.csrr csr) t := by
  rcases execCsrr_next h with ⟨v, -, rfl⟩ | ⟨c, -, rfl⟩
  · exact .res v rfl
  · cases hf : s.st.f with
    | true => rw [State.takeFault_of_halted hf]; exact .ignored hf
    | false => rw [State.takeFault_of_noFault hf]; exact .faulted c hf

theorem execRespond_ran {sa sb : SlotId} {s t : State} (h : execRespond sa sb s = .next t) :
    Ran s (.respond sa sb) t := by
  refine (execRespond_next h).ran ?_
  rintro ⟨p, cfg, hp, hl, hc, rfl⟩
  obtain ⟨-, -, htr⟩ := State.config_ok hc
  rcases respondArp_cases p cfg with ⟨-, e⟩ | ⟨-, -, e⟩ | ⟨-, -, e⟩ <;> rw [e]
  · exact .respondSilent sb hp (.inl rfl)
  · exact .respondSilent sb hp (.inr (by rw [htr]))
  · rw [htr]
    exact .respondReply sb hp hl

/-- Everything a command can do: a next state that `exec` answers is one `Ran` lists. -/
theorem exec_ran {s t : State} {i : Instr} (h : exec i s = .next t) : Ran s i t := by
  cases i with
  | nop => cases h; exact .nop
  | csrr csr => exact execCsrr_ran h
  | csrw csr v =>
    refine (execCsrw_next h).ran ?_
    rintro (⟨rfl, rfl⟩ | ⟨rfl, rfl⟩ | ⟨rfl, rfl⟩)
    · exact .traceEn v
    · exact .lmac v
    · exact .lip v
  | swap16 v => exact (execSwap16_next h).ran fun ⟨_, e⟩ => e ▸ .res _ rfl
  | n16set v => exact (execN16set_next h).ran fun ⟨_, e⟩ => e ▸ .n16set v
  | n16get => exact (execN16get_next h).ran fun e => e ▸ .res _ rfl
  | n16ldr v => exact (execN16ldr_next h).ran fun ⟨_, e⟩ => e ▸ .n16ldr v
  | n16str => exact (execN16str_next h).ran fun e => e ▸ .res _ rfl
  | n16d => exact (execN16d_next h).ran fun e => e ▸ .n16d
  | maceq sa sel cmp => exact (execMaceq_next h).ran fun ⟨z, e⟩ => e ▸ .maceq sa sel cmp z
  | ipeq sa sel cmp => exact (execIpeq_next h).ran fun ⟨z, e⟩ => e ▸ .ipeq sa sel cmp z
  | ftrace sa sel => exact (execFtrace_next h).ran fun ⟨_, _, hp, hr, e⟩ => e ▸ .ftrace hp hr
  | decode sa lay => exact (execDecode_next h).ran fun ⟨_, ho, e⟩ => e ▸ .decode sa lay ho
  | encode sa => exact (execEncode_next h).ran fun ⟨_, hp, e⟩ => e ▸ .encode hp
  | fget sa sel => exact (execFget_next h).ran fun ⟨v, e⟩ => e ▸ .res v rfl
  | fset sa sel v => exact (execFset_next h).ran fun ⟨_, _, hp, hr, _, e⟩ => e ▸ .fset v hp hr
  | paylen sa => exact (execPaylen_next h).ran fun ⟨v, e⟩ => e ▸ .res v rfl
  | pcopy sa sb => exact (execPcopy_next h).ran fun ⟨_, hp, e⟩ => e ▸ .pcopy sa hp
  | pclr sa => exact (execPclr_next h).ran fun e => e ▸ .pclr sa
  | payrx sa => exact (execPayrx_next h).ran fun ⟨_, hp, e⟩ => e ▸ .payrx hp
  | txpay sa => exact (execTxpay_next h).ran fun ⟨_, hp, hlen, e⟩ => e ▸ .txpay hp hlen
  | ptrace sa => exact (execPtrace_next h).ran fun ⟨_, hp, e⟩ => e ▸ .ptrace hp
  | respond sa sb => exact execRespond_ran h
  | dispatch lay => exact (execDispatch_next h).ran fun ⟨_, _, hc, hr, hlen, e⟩ => e ▸ .dispatch lay hc hr hlen
  | emit => exact (execEmit_next h).ran fun e => e ▸ .emit
  | arpRequest => cases h
  | arpReply => cases h

/-! ### Frames of the registers and flags (10_state.md R17 to R25) -/

section Frames
variable {s t : State} {i : Instr}

theorem Ran.res_eq (h : Ran s i t) (hi : writesRes i = false) : t.res = s.res := by
  cases h with
  | res v hw => rw [hw] at hi; cases hi
  | _ => rfl

theorem Ran.traceEn_eq (h : Ran s i t) (hi : ∀ v, i ≠ .csrw .ctl v) : t.traceEn = s.traceEn := by
  cases h with
  | traceEn v => exact absurd rfl (hi v)
  | _ => rfl

theorem Ran.lmac_eq (h : Ran s i t) (hi : ∀ v, i ≠ .csrw .lmac v) : t.lmac = s.lmac := by
  cases h with
  | lmac v => exact absurd rfl (hi v)
  | _ => rfl

theorem Ran.lip_eq (h : Ran s i t) (hi : ∀ v, i ≠ .csrw .lip v) : t.lip = s.lip := by
  cases h with
  | lip v => exact absurd rfl (hi v)
  | _ => rfl

theorem Ran.flagV_eq (h : Ran s i t) (hi : ∀ sa lay, i ≠ .decode sa lay) : t.st.v = s.st.v := by
  cases h with
  | decode sa lay ho => exact absurd rfl (hi sa lay)
  | _ => rfl

theorem Ran.flagZ_eq (h : Ran s i t) (hi : ∀ sa sel cmp, i ≠ .maceq sa sel cmp ∧ i ≠ .ipeq sa sel cmp) :
    t.st.z = s.st.z := by
  cases h with
  | maceq sa sel cmp z => exact absurd rfl (hi sa sel cmp).1
  | ipeq sa sel cmp z => exact absurd rfl (hi sa sel cmp).2
  | _ => rfl

theorem Ran.flagE_eq (h : Ran s i t) (hi : writesE i = false) : t.st.e = s.st.e := by
  cases h with
  | respondReply sb hp hl => cases hi
  | respondSilent sb hp hevs => cases hi
  | dispatch lay hc hr hlen => cases hi
  | emit => cases hi
  | _ => rfl

theorem Ran.moves_eq (h : Ran s i t) : t.moves = s.moves := by
  cases h <;> rfl

theorem Ran.pc_eq (h : Ran s i t) : t.pc = s.pc := by
  cases h <;> rfl

/-! ### Frames of the buffers, the cell and the slots (10_state.md R11 to R16) -/

theorem Ran.rx_eq (h : Ran s i t) (hi : ∀ sa, i ≠ .payrx sa) : t.rx = s.rx := by
  cases h with
  | @payrx sa p hp => exact absurd rfl (hi sa)
  | _ => rfl

theorem Ran.tx_eq (h : Ran s i t) (hi : ∀ sa, i ≠ .encode sa) : t.tx = s.tx := by
  cases h with
  | @encode sa p hp => exact absurd rfl (hi sa)
  | _ => rfl

theorem Ran.n_eq (h : Ran s i t) (hi : ∀ v, i ≠ .n16set v ∧ i ≠ .n16ldr v) : t.n = s.n := by
  cases h with
  | n16set v => exact absurd rfl (hi v).1
  | n16ldr v => exact absurd rfl (hi v).2
  | _ => rfl

/-- Writing slot `i` leaves a slot alone that is not the destination. -/
theorem State.slot_setSlot_of_decide {i j : SlotId} (s : State) (o : Option Packet) (h : decide (i = j) = false) :
    (s.setSlot i o).slot j = s.slot j :=
  State.slot_setSlot_of_ne s o (Ne.symm (of_decide_eq_false h))

theorem Ran.slot_eq (h : Ran s i t) {j : SlotId} (hi : writesSlot j i = false) : t.slot j = s.slot j := by
  cases h with
  | decode sa lay ho => exact State.slot_setSlot_of_decide s _ hi
  | fset v hp hr => exact State.slot_setSlot_of_decide s _ hi
  | pcopy sa hp => exact State.slot_setSlot_of_decide s _ hi
  | pclr sa => exact State.slot_setSlot_of_decide s _ hi
  | txpay hp hlen => exact State.slot_setSlot_of_decide s _ hi
  | respondReply sb hp hl => exact State.slot_setSlot_of_decide _ _ hi
  | _ => rfl

end Frames

/-! ### The dumps of nested dispatch (42_response.md R151, R161) -/

theorem mem_dumpIf {en : Bool} {p : Packet} {ev : TraceEvent} : ev ∈ dumpIf en p ↔ en = true ∧ ev = dPkt p := by
  cases en <;> simp [dumpIf]

/-- The contract traces nothing but the dump of its packet, and only while tracing is on. -/
theorem mem_respondArp_trs {p : Packet} {cfg : Cfg} {ev : TraceEvent} (h : ev ∈ (respondArp p cfg).trs) :
    cfg.traceEn = true ∧ ev = dPkt p := by
  rcases respondArp_cases p cfg with ⟨-, e⟩ | ⟨-, -, e⟩ | ⟨-, -, e⟩ <;> rw [e] at h
  · cases h
  · exact mem_dumpIf.mp h
  · exact mem_dumpIf.mp h

/-- Everything a layer of nested dispatch can answer (42_response.md R157, R161). -/
theorem handle_cases {T : Tables} {depth : Nat} {lay : Layout} {b : Bytes} {cfg : Cfg} {r : Handled}
    (h : handle T (depth + 1) lay b cfg = .ok r) :
    r = ⟨[], []⟩ ∨ ∃ p, decodePacket lay b = some p ∧
      (r = ⟨(respondArp p cfg).ems, (respondArp p cfg).trs⟩ ∨ r = ⟨[], dumpIf cfg.traceEn p⟩ ∨
        ∃ lay' inner hdr, handle T depth lay' p.pay cfg = .ok inner ∧
          r = ⟨wrapAll hdr inner.ems, dumpIf cfg.traceEn p ++ inner.trs⟩) := by
  rw [handle] at h
  split at h
  · cases h; exact .inl rfl
  · rename_i p hp
    split at h
    · cases h; exact .inr ⟨p, hp, .inl rfl⟩
    · split at h
      · split at h
        · cases h; exact .inr ⟨p, hp, .inr (.inl rfl)⟩
        · split at h
          · cases h
          · rename_i inner hin
            split at h
            · cases h
            · cases h; exact .inr ⟨p, hp, .inr (.inr ⟨_, inner, _, hin, rfl⟩)⟩
      · cases h; exact .inl rfl

/-- Every event of nested dispatch is the dump of a packet that some layer decoded, and there is none while tracing is off. -/
theorem mem_handle_trs {T : Tables} {depth : Nat} {lay : Layout} {b : Bytes} {cfg : Cfg} {r : Handled} {ev : TraceEvent}
    (h : handle T depth lay b cfg = .ok r) (hev : ev ∈ r.trs) :
    cfg.traceEn = true ∧ ∃ lay' b' p, decodePacket lay' b' = some p ∧ ev = dPkt p := by
  induction depth generalizing lay b r with
  | zero => cases h
  | succ depth ih =>
    rcases handle_cases h with rfl | ⟨p, hp, rfl | rfl | ⟨lay', inner, hdr, hin, rfl⟩⟩
    · cases hev
    · obtain ⟨hen, e⟩ := mem_respondArp_trs hev
      exact ⟨hen, lay, b, p, hp, e⟩
    · obtain ⟨hen, e⟩ := mem_dumpIf.mp hev
      exact ⟨hen, lay, b, p, hp, e⟩
    · rcases List.mem_append.mp hev with hev | hev
      · obtain ⟨hen, e⟩ := mem_dumpIf.mp hev
        exact ⟨hen, lay, b, p, hp, e⟩
      · exact ih hin hev

/-! ### The histories (10_state.md R27, R28) -/

theorem Ran.emits_grow {s t : State} {i : Instr} (h : Ran s i t) :
    ∃ e, t.emits = s.emits ++ e ∧ (writesE i = false → e = []) := by
  cases h with
  | respondReply sb hp hl => exact ⟨_, rfl, nofun⟩
  | respondSilent sb hp hevs => exact ⟨_, rfl, nofun⟩
  | dispatch lay hc hr hlen => exact ⟨_, rfl, nofun⟩
  | emit => exact ⟨_, rfl, nofun⟩
  | _ => exact ⟨[], (List.append_nil _).symm, fun _ => rfl⟩

theorem Ran.trace_grow {s t : State} {i : Instr} (h : Ran s i t) :
    ∃ e, t.trace = s.trace ++ e ∧ (writesTrace i = false → e = []) ∧
      (s.TraceOff → i ≠ .n16d → (∀ sa sel, i ≠ .ftrace sa sel) → e = []) := by
  have dump_off : ∀ p, s.TraceOff → dumpIf s.traceEn p = [] := fun p hoff => by rw [hoff]; rfl
  cases h with
  | n16d => exact ⟨_, rfl, nofun, fun _ hi => absurd rfl hi⟩
  | @ftrace sa sel _ _ _ _ => exact ⟨_, rfl, nofun, fun _ _ hi => absurd rfl (hi sa sel)⟩
  | @ptrace _ p _ => exact ⟨_, rfl, nofun, fun hoff _ _ => dump_off p hoff⟩
  | @respondReply _ _ p _ _ _ => exact ⟨_, rfl, nofun, fun hoff _ _ => dump_off p hoff⟩
  | @respondSilent _ _ p _ _ hevs =>
    exact ⟨_, rfl, nofun, fun hoff _ _ => hevs.elim id fun e => e.trans (dump_off p hoff)⟩
  | @dispatch lay cfg r hc hr _ =>
    refine ⟨r.trs, rfl, nofun, fun hoff _ _ => List.eq_nil_iff_forall_not_mem.mpr fun ev hev => ?_⟩
    obtain ⟨-, -, hen⟩ := State.config_ok hc
    have hon := (mem_handle_trs hr hev).1
    rw [hen, hoff] at hon
    cases hon
  | _ => exact ⟨[], (List.append_nil _).symm, fun _ => rfl, fun _ _ _ => rfl⟩

/-! ### The invariant: what each operation needs in order to keep it -/

theorem dPkt_wf {p : Packet} (h : slotWf (some p) = true) : (dPkt p).wf = true := by
  obtain ⟨hhdr, -⟩ := (slotWf_some p).mp h
  simp [dPkt, TraceEvent.wf, hhdr]

theorem dumpIf_wf {p : Packet} (h : slotWf (some p) = true) (en : Bool) : (dumpIf en p).all TraceEvent.wf = true := by
  refine List.all_eq_true.mpr fun ev hev => ?_
  obtain ⟨-, rfl⟩ := mem_dumpIf.mp hev
  exact dPkt_wf h

/-- A field's event carries as many bytes as its kind has. -/
theorem dField_wf {k : Kind} {b : Bytes} (h : b.length = k.size) : (dField k b).wf = true := by
  cases k with
  | u8 => rfl
  | n16 => rfl
  | mac => exact beq_iff_eq.mpr h
  | ip4 => exact beq_iff_eq.mpr h

/-- A field of a well-formed packet has all its bytes. -/
theorem fbytes_length_of_wf {p : Packet} {sel : BitVec 4} {r : FieldRow} (h : slotWf (some p) = true)
    (hr : fieldAt p.lay sel = some r) : (p.fbytes r).length = r.size := by
  obtain ⟨hhdr, -⟩ := (slotWf_some p).mp h
  exact Packet.fbytes_length (hhdr ▸ fieldAt_bound hr)

theorem encodePacket_length_le {p : Packet} (h : slotWf (some p) = true) :
    (encodePacket p).length ≤ Config.maxBuf := by
  obtain ⟨hhdr, hlen⟩ := (slotWf_some p).mp h
  rw [encodePacket, List.length_append, hhdr]
  exact hlen

theorem tooLong_append (a b : List (List Bytes)) : tooLong (a ++ b) = (tooLong a || tooLong b) :=
  List.any_append

theorem tooLong_singleton {b : Bytes} (h : b.length ≤ Config.maxBuf) : tooLong [[b]] = false := by
  simp [tooLong, h]

theorem decodePacket_hdr_wf {lay : Layout} {b : Bytes} {p : Packet} (h : decodePacket lay b = some p) :
    (dPkt p).wf = true := by
  obtain ⟨hl, hhdr, -, hlen⟩ := decodePacket_some h
  simp [dPkt, TraceEvent.wf, hl, hhdr, hlen]

theorem dispatchResult_trs_wf {lay : Layout} {b : Bytes} {cfg : Cfg} {r : Handled}
    (h : dispatchResult lay b cfg = .ok r) : r.trs.all TraceEvent.wf = true := by
  refine List.all_eq_true.mpr fun ev hev => ?_
  obtain ⟨-, _, _, _, hp, rfl⟩ := mem_handle_trs h hev
  exact decodePacket_hdr_wf hp

section Invariant
variable {s : State}

theorem State.Inv.slotWf (h : s.Inv) {i : SlotId} {p : Packet} (hp : s.slot i = some p) :
    slotWf (some p) = true := by
  obtain ⟨hm, -⟩ := h
  exact hp ▸ ((Memory.wf_iff s).mp hm).1 i

theorem State.Inv.rx_length (h : s.Inv) : s.rx.length ≤ Config.maxBuf := ((Memory.wf_iff s).mp h.1).2.1

theorem State.Inv.tx_length (h : s.Inv) : s.tx.length ≤ Config.maxBuf := ((Memory.wf_iff s).mp h.1).2.2

theorem State.Inv.setSlot (h : s.Inv) (i : SlotId) {o : Option Packet} (ho : Machine.slotWf o = true) :
    (s.setSlot i o).Inv :=
  ⟨Memory.wf_setSlot h.1 i ho, h.2⟩

theorem State.Inv.setRx (h : s.Inv) {b : Bytes} (hb : b.length ≤ Config.maxBuf) : (s.setRx b).Inv :=
  ⟨Memory.wf_setRx h.1 hb, h.2⟩

theorem State.Inv.setTx (h : s.Inv) {b : Bytes} (hb : b.length ≤ Config.maxBuf) : (s.setTx b).Inv :=
  ⟨Memory.wf_setTx h.1 hb, h.2⟩

theorem State.Inv.traceAll (h : s.Inv) {evs : List TraceEvent} (hevs : evs.all TraceEvent.wf = true) :
    (s.traceAll evs).Inv := by
  obtain ⟨hm, hc, he, ht⟩ := h
  refine ⟨hm, hc, he, ?_⟩
  rw [State.traceAll_trace, List.all_append, ht, hevs]
  rfl

theorem State.Inv.emitAll (h : s.Inv) {ems : List (List Bytes)} (hems : tooLong ems = false) :
    (s.emitAll ems).Inv := by
  obtain ⟨hm, hc, he, ht⟩ := h
  refine ⟨hm, hc, ?_, ht⟩
  rw [State.emitAll_emits, tooLong_append, he, hems]
  rfl

theorem State.Inv.setE (h : s.Inv) (b : Bool) : (s.setE b).Inv := h

theorem State.Inv.faulted (h : s.Inv) (c : Cause) : (s.faulted c).Inv := by
  obtain ⟨hm, -, he, ht⟩ := h
  exact ⟨hm, rfl, he, ht⟩

theorem State.Inv.takeFault (h : s.Inv) (c : Cause) : (s.takeFault c).Inv := by
  cases hf : s.st.f with
  | true => rw [State.takeFault_of_halted hf]; exact h
  | false => rw [State.takeFault_of_noFault hf]; exact h.faulted c

theorem State.reset_inv : State.reset.Inv := ⟨State.reset_wf, rfl, rfl, rfl⟩

/-- A command keeps the invariant; the commands not named write only registers that it does not speak of. -/
theorem Ran.inv {t : State} {i : Instr} (h : Ran s i t) (hs : s.Inv) : t.Inv := by
  cases h with
  | faulted c hf => exact hs.faulted c
  | n16d => exact hs.traceAll rfl
  | ftrace hp hr =>
    refine hs.traceAll ?_
    rw [List.all_cons, dField_wf (fbytes_length_of_wf (hs.slotWf hp) hr)]
    rfl
  | @decode sa lay o ho =>
    refine hs.setSlot sa ?_
    cases o with
    | none => rfl
    | some p => exact decodePacket_wf ho hs.rx_length
  | encode hp => exact hs.setTx (encodePacket_length_le (hs.slotWf hp))
  | @fset sa sel v p r hp hr =>
    refine hs.setSlot sa (Packet.patch_wf (hs.slotWf hp) ?_)
    rw [fieldBytes_length]
    exact fieldAt_bound hr
  | pcopy sa hp => exact hs.setSlot sa (hs.slotWf hp)
  | pclr sa => exact hs.setSlot sa rfl
  | payrx hp =>
    obtain ⟨-, hlen⟩ := (slotWf_some _).mp (hs.slotWf hp)
    exact hs.setRx (by omega)
  | txpay hp hlen =>
    obtain ⟨hhdr, -⟩ := (slotWf_some _).mp (hs.slotWf hp)
    exact hs.setSlot _ ((slotWf_some _).mpr ⟨hhdr, hlen⟩)
  | ptrace hp => exact hs.traceAll (dumpIf_wf (hs.slotWf hp) _)
  | @respondReply _ sb p cfg hp hl =>
    have hp := hs.slotWf hp
    have hr := arpReplyPacket_wf cfg hl hp
    have hems := tooLong_singleton (encodePacket_length_le hr)
    exact (((hs.traceAll (dumpIf_wf hp _)).emitAll hems).setSlot sb hr).setE true
  | respondSilent sb hp hevs =>
    refine ((hs.traceAll ?_).emitAll rfl).setE false
    rcases hevs with rfl | rfl
    · rfl
    · exact dumpIf_wf (hs.slotWf hp) _
  | dispatch lay hc hr hlen => exact ((hs.traceAll (dispatchResult_trs_wf hr)).emitAll hlen).setE _
  | emit => exact (hs.emitAll (tooLong_singleton hs.tx_length)).setE true
  | _ => exact hs

theorem State.Inv.advanced (h : s.Inv) (rest : List Move) : (s.advanced rest).Inv := h

end Invariant

/-! ### The statements about steps, frames and histories -/

/-- Settles O5: each move of the host, and each effect a command can have, keeps the invariant. -/
theorem stepKeepsTheInvariant : Obligations.StepKeepsTheInvariant := by
  intro s t hs h
  cases hm : s.moves with
  | nil => rw [step_idle hm] at h; cases h; exact hs
  | cons m rest =>
    have hs' := hs.advanced rest
    cases m with
    | load b =>
      rw [step_load hm] at h
      obtain ⟨hb, rfl⟩ := hostLoad_next h
      exact hs'.setRx hb
    | observe => rw [step_observe hm] at h; cases h; exact hs'
    | reset => rw [step_reset hm] at h; cases h; exact State.reset_inv
    | command cw wdata =>
      cases hd : decode cw wdata with
      | ok i => rw [step_command_ok hm hd] at h; exact (exec_ran h).inv hs'
      | error e => rw [step_command_error hm hd] at h; cases h; exact hs'.takeFault .ecmd

/-- Settles O9: each move hands `exec`, or the host's own operation, the state with the list and the index advanced, and a
command keeps both. -/
theorem everyMoveAdvancesTheHostIndex : Obligations.EveryMoveAdvancesTheHostIndex := by
  refine ⟨fun s t m rest hm h => ?_, fun s rest hm => step_observe hm, fun s hm => step_idle hm⟩
  cases m with
  | load b =>
    rw [step_load hm] at h
    obtain ⟨-, rfl⟩ := hostLoad_next h
    exact ⟨rfl, rfl⟩
  | observe => rw [step_observe hm] at h; cases h; exact ⟨rfl, rfl⟩
  | reset => rw [step_reset hm] at h; cases h; exact ⟨rfl, rfl⟩
  | command cw wdata =>
    cases hd : decode cw wdata with
    | ok i =>
      rw [step_command_ok hm hd] at h
      exact ⟨(exec_ran h).moves_eq, (exec_ran h).pc_eq⟩
    | error e =>
      rw [step_command_error hm hd] at h
      cases h
      exact ⟨State.takeFault_moves _ _, State.takeFault_pc _ _⟩

/-- Settles O49: `RESPOND`, `DISPATCH` and `EMIT` append to `EMITS`, and what a command appends to `TRACE` is its own. -/
theorem historiesOnlyGrow : Obligations.HistoriesOnlyGrow :=
  fun _ _ _ h => ⟨(exec_ran h).emits_grow, (exec_ran h).trace_grow⟩

/-- Settles O50, one frame lemma per register. -/
theorem registersChangeOnlyByTheirCommands : Obligations.RegistersChangeOnlyByTheirCommands := by
  intro s t i h
  have h := exec_ran h
  exact ⟨h.res_eq, h.traceEn_eq, h.lmac_eq, h.lip_eq, h.flagV_eq, h.flagZ_eq, h.flagE_eq, h.moves_eq, h.pc_eq⟩

/-- Settles O51, one frame lemma per buffer. -/
theorem buffersChangeOnlyByTheirCommands : Obligations.BuffersChangeOnlyByTheirCommands := by
  intro s t i h
  have h := exec_ran h
  exact ⟨h.rx_eq, h.tx_eq, h.n_eq, fun _ => h.slot_eq⟩

/-- Settles O1: the slots one by one, every other row of the reset table as `State.reset` gives it. -/
theorem resetLeavesTheSpecValues : Obligations.ResetLeavesTheSpecValues := by
  refine ⟨fun i => ?_, rfl, rfl, rfl, rfl, rfl, rfl, rfl, rfl, rfl, rfl, rfl, rfl, rfl⟩
  cases i <;> rfl

/-- Settles O4. -/
theorem invariantHoldsAtReset : Obligations.InvariantHoldsAtReset := State.reset_inv

end Sys2Proof.Machine
end

section
/-! PROOFS. Tracing changes nothing else: two runs that differ in `TRACE_EN` and `TRACE` stay so (10_state.md R28,
70_reset_and_hazards.md R238). -/

namespace Sys2Proof.Machine

/-! ### Answers that differ at most in tracing -/

/-- The state with another `TRACE_EN` and another `TRACE`. -/
def State.retraced (s : State) (en : Bool) (tr : List TraceEvent) : State := { s with traceEn := en, trace := tr }

section Retraced
variable (s : State) (en : Bool) (tr : List TraceEvent)

@[simp] theorem State.retraced_rx : (s.retraced en tr).rx = s.rx := rfl
@[simp] theorem State.retraced_tx : (s.retraced en tr).tx = s.tx := rfl
@[simp] theorem State.retraced_st : (s.retraced en tr).st = s.st := rfl
@[simp] theorem State.retraced_macv : (s.retraced en tr).macv = s.macv := rfl
@[simp] theorem State.retraced_ipv : (s.retraced en tr).ipv = s.ipv := rfl

end Retraced

theorem SameButTrace.eq_retraced {s t : State} (h : SameButTrace s t) : t = s.retraced t.traceEn t.trace := h

/-- Both computations raise the same fault, or answer states that differ at most in tracing. -/
inductive SameEnd : Except Cause State → Except Cause State → Prop where
  | ok {s t : State} (h : SameButTrace s t) : SameEnd (.ok s) (.ok t)
  | error (c : Cause) : SameEnd (.error c) (.error c)

/-- Both steps go on, to states that differ at most in tracing. -/
def SameNext (o o' : Out) : Prop := ∃ s t, o = .next s ∧ o' = .next t ∧ SameButTrace s t

/-- A check both computations make alike. -/
theorem SameEnd.bind {α : Type} {x : Except Cause α} {f g : α → Except Cause State} (h : ∀ a, SameEnd (f a) (g a)) :
    SameEnd (x >>= f) (x >>= g) := by
  cases x with
  | error c => exact .error c
  | ok a => exact h a

section Commands
variable (s : State) (en : Bool) (tr : List TraceEvent)

theorem takeFault_same (c : Cause) : SameButTrace (s.takeFault c) ((s.retraced en tr).takeFault c) := by
  cases hf : s.st.f with
  | true =>
    rw [State.takeFault_of_halted hf, State.takeFault_of_halted (s := s.retraced en tr) hf]
    rfl
  | false =>
    rw [State.takeFault_of_noFault hf, State.takeFault_of_noFault (s := s.retraced en tr) hf]
    rfl

variable {s en tr}

theorem finish_same {r r' : Except Cause State} (h : SameEnd r r') :
    SameNext (finish s r) (finish (s.retraced en tr) r') := by
  cases h with
  | ok h => exact ⟨_, _, rfl, rfl, h⟩
  | error c => exact ⟨_, _, rfl, rfl, takeFault_same s en tr c⟩

theorem command_same {r r' : Except Cause State} (h : SameEnd r r') :
    SameNext (command s r) (command (s.retraced en tr) r') := by
  cases hf : s.st.f with
  | true => exact ⟨_, _, command_of_halted hf r, command_of_halted (s := s.retraced en tr) hf r', rfl⟩
  | false =>
    have hs : command s r = finish s r := if_neg (by simp [hf])
    have ht : command (s.retraced en tr) r' = finish (s.retraced en tr) r' := if_neg (by simp [hf])
    rw [hs, ht]
    exact finish_same h

end Commands

/-! ### The response contract and nested dispatch emit alike, traced or not (42_response.md R151, R161) -/

/-- The configuration with another `TRACE_EN`. -/
def Cfg.retraced (cfg : Cfg) (en : Bool) : Cfg := { cfg with traceEn := en }

/-- Both ways of dispatch are stuck alike, or emit the same buffers. -/
inductive SameEmissions : Except Fault Handled → Except Fault Handled → Prop where
  | ok {r r' : Handled} (h : r.ems = r'.ems) : SameEmissions (.ok r) (.ok r')
  | error (f : Fault) : SameEmissions (.error f) (.error f)

theorem respondArp_retraced (p : Packet) (cfg : Cfg) (en : Bool) :
    (respondArp p cfg).reply = (respondArp p (cfg.retraced en)).reply ∧
      (respondArp p cfg).ems = (respondArp p (cfg.retraced en)).ems := by
  have ha : arpAccepts p (cfg.retraced en) = arpAccepts p cfg := rfl
  have hr : arpReplyPacket p (cfg.retraced en) = arpReplyPacket p cfg := rfl
  unfold respondArp
  rw [ha, hr]
  split
  · cases arpOperation p with
    | none => exact ⟨rfl, rfl⟩
    | some o => cases o <;> exact ⟨rfl, rfl⟩
  · exact ⟨rfl, rfl⟩

theorem acceptsOf_retraced (lay : Layout) (p : Packet) (cfg : Cfg) (en : Bool) :
    acceptsOf lay p (cfg.retraced en) = acceptsOf lay p cfg := by
  cases lay <;> rfl

theorem wrapOf_retraced (lay : Layout) (h : Bytes) (cfg : Cfg) (en : Bool) :
    wrapOf lay h (cfg.retraced en) = wrapOf lay h cfg := by
  cases lay <;> rfl

/-- Neither the filter nor the wrapping of a layer reads `TRACE_EN`, so tracing changes no layer's emissions. -/
theorem handle_retraced (depth : Nat) (lay : Layout) (b : Bytes) (cfg : Cfg) (en : Bool) :
    SameEmissions (handle tables depth lay b cfg) (handle tables depth lay b (cfg.retraced en)) := by
  induction depth generalizing lay b with
  | zero => exact .error _
  | succ depth ih =>
    have ha : ∀ p, tables.accepts lay p (cfg.retraced en) = tables.accepts lay p cfg :=
      fun p => acceptsOf_retraced lay p cfg en
    have hw : ∀ h, tables.wrap lay h (cfg.retraced en) = tables.wrap lay h cfg := fun h => wrapOf_retraced lay h cfg en
    simp only [handle, ha, hw]
    cases decodePacket lay b with
    | none => exact .ok rfl
    | some p =>
      dsimp only
      split
      · exact .ok (respondArp_retraced p cfg en).2
      · split
        · cases tables.inner lay p with
          | none => exact .ok rfl
          | some lay' =>
            have inner := ih lay' p.pay
            dsimp only
            generalize handle tables depth lay' p.pay cfg = x at inner ⊢
            generalize handle tables depth lay' p.pay (cfg.retraced en) = y at inner ⊢
            cases inner with
            | error f => exact .error f
            | ok h =>
              cases tables.wrap lay p.hdr cfg with
              | none => exact .error _
              | some hdr => exact .ok (congrArg (wrapAll hdr) h)
        · exact .ok rfl

/-! ### Each command, run with and without tracing -/

section Commands
variable (s : State) (en : Bool) (tr : List TraceEvent)

theorem State.config_retraced : (s.retraced en tr).config = s.config.map fun cfg => cfg.retraced en := by
  cases hm : s.lmac with
  | none =>
    rw [State.config_of_not_configured (.inl hm), State.config_of_not_configured (s := s.retraced en tr) (.inl hm)]
    rfl
  | some m =>
    cases ha : s.lip with
    | none =>
      rw [State.config_of_not_configured (.inr ha), State.config_of_not_configured (s := s.retraced en tr) (.inr ha)]
      rfl
    | some a =>
      rw [State.config_of_configured hm ha, State.config_of_configured (s := s.retraced en tr) hm ha]
      rfl

/-- What `RESPOND` writes besides the trace is the reply and the emissions. -/
theorem applyResponse_same (sb : SlotId) {r r' : Response} (hr : r.reply = r'.reply) (he : r.ems = r'.ems) :
    SameButTrace (s.applyResponse sb r) ((s.retraced en tr).applyResponse sb r') := by
  unfold State.applyResponse
  rw [hr, he]
  cases r'.reply <;> rfl

theorem applyDispatch_same {r r' : Handled} (he : r.ems = r'.ems) :
    SameButTrace (s.applyDispatch r) ((s.retraced en tr).applyDispatch r') := by
  unfold State.applyDispatch
  rw [he]
  rfl

theorem execCsrw_same (csr : Csr) (v : Word) : SameNext (execCsrw csr v s) (execCsrw csr v (s.retraced en tr)) := by
  refine command_same ?_
  cases csr with
  | ctl => exact .bind fun _ => .ok rfl
  | lmac => exact .bind fun _ => .ok rfl
  | lip => exact .bind fun _ => .ok rfl
  | st => exact .error _
  | fcause => exact .error _
  | rxlen => exact .error _
  | txlen => exact .error _

/-- No register but `CTL` shows `TRACE_EN` (43_system.md R182). -/
theorem csrValue_retraced {csr : Csr} (h : csr ≠ .ctl) : csrValue csr (s.retraced en tr) = csrValue csr s := by
  cases csr with
  | ctl => exact absurd rfl h
  | _ => rfl

theorem execCsrr_same {csr : Csr} (h : csr ≠ .ctl) : SameNext (execCsrr csr s) (execCsrr csr (s.retraced en tr)) := by
  refine finish_same ?_
  rw [csrValue_retraced s en tr h]
  exact .bind fun _ => .ok rfl

theorem execDecode_same (sa : SlotId) (lay : Layout) :
    SameNext (execDecode sa lay s) (execDecode sa lay (s.retraced en tr)) := by
  refine command_same (.ok ?_)
  rw [State.retraced_rx]
  cases decodePacket lay s.rx <;> rfl

theorem execTxpay_same (sa : SlotId) : SameNext (execTxpay sa s) (execTxpay sa (s.retraced en tr)) := by
  refine command_same (.bind fun p => ?_)
  rw [State.retraced_tx]
  split
  · exact .error _
  · exact .ok rfl

theorem execRespond_same (sa sb : SlotId) : SameNext (execRespond sa sb s) (execRespond sa sb (s.retraced en tr)) := by
  refine command_same (.bind fun p => ?_)
  split
  · exact .error _
  · rw [State.config_retraced]
    cases s.config with
    | error c => exact .error c
    | ok cfg =>
      obtain ⟨hr, he⟩ := respondArp_retraced p cfg en
      exact .ok (applyResponse_same s en tr sb hr he)

theorem execDispatch_same (lay : Layout) :
    SameNext (execDispatch lay s) (execDispatch lay (s.retraced en tr)) := by
  unfold execDispatch
  rw [State.config_retraced, State.retraced_st, State.retraced_rx]
  split
  · exact ⟨_, _, rfl, rfl, rfl⟩
  · cases s.config with
    | error c => exact ⟨_, _, rfl, rfl, takeFault_same s en tr c⟩
    | ok cfg =>
      obtain ⟨r, hr⟩ := dispatchResult_ok lay s.rx cfg
      obtain ⟨r', hr'⟩ := dispatchResult_ok lay s.rx (cfg.retraced en)
      have he : SameEmissions (dispatchResult lay s.rx cfg) (dispatchResult lay s.rx (cfg.retraced en)) :=
        handle_retraced _ lay s.rx cfg en
      rw [hr, hr'] at he
      obtain ⟨he⟩ := he
      simp only [Except.map, hr, hr', he]
      split
      · exact ⟨_, _, rfl, rfl, takeFault_same s en tr .elen⟩
      · exact ⟨_, _, rfl, rfl, applyDispatch_same s en tr he⟩

/-- Every command but `CSRR CTL` is blind to `TRACE_EN` and `TRACE`: its checks read neither, and its writes agree elsewhere. -/
theorem exec_same {i : Instr} (hw : i.wf = true) (hi : i ≠ .csrr .ctl) :
    SameNext (exec i s) (exec i (s.retraced en tr)) := by
  cases i with
  | nop => exact ⟨_, _, rfl, rfl, rfl⟩
  | csrr csr => exact execCsrr_same s en tr fun h => hi (h ▸ rfl)
  | csrw csr v => exact execCsrw_same s en tr csr v
  | swap16 v => exact command_same (.bind fun _ => .ok rfl)
  | n16set v => exact command_same (.bind fun _ => .ok rfl)
  | n16get => exact command_same (.ok rfl)
  | n16ldr v => exact command_same (.bind fun _ => .ok rfl)
  | n16str => exact command_same (.ok rfl)
  | n16d => exact command_same (.ok rfl)
  | maceq sa sel cmp => exact command_same (.bind fun _ => .bind fun _ => .bind fun _ => .ok rfl)
  | ipeq sa sel cmp => exact command_same (.bind fun _ => .bind fun _ => .bind fun _ => .ok rfl)
  | ftrace sa sel => exact command_same (.bind fun _ => .bind fun _ => .ok rfl)
  | decode sa lay => exact execDecode_same s en tr sa lay
  | encode sa => exact command_same (.bind fun _ => .ok rfl)
  | fget sa sel => exact command_same (.bind fun _ => .bind fun _ => .ok rfl)
  | fset sa sel v => exact command_same (.bind fun _ => .bind fun _ => .bind fun _ => .ok rfl)
  | paylen sa => exact command_same (.bind fun _ => .ok rfl)
  | pcopy sa sb => exact command_same (.bind fun _ => .ok rfl)
  | pclr sa => exact command_same (.ok rfl)
  | payrx sa => exact command_same (.bind fun _ => .ok rfl)
  | txpay sa => exact execTxpay_same s en tr sa
  | ptrace sa => exact command_same (.bind fun _ => .ok rfl)
  | respond sa sb => exact execRespond_same s en tr sa sb
  | dispatch lay => exact execDispatch_same s en tr lay
  | emit => exact command_same (.ok rfl)
  | arpRequest => cases hw
  | arpReply => cases hw

/-- `CTL` shows `TRACE_EN` in bit 0 alone (43_system.md R182). -/
theorem ctlWord_retraced_getLsbD {k : Nat} (hk : k ≠ 0) :
    (ctlWord s).getLsbD k = (ctlWord (s.retraced en tr)).getLsbD k := by
  have hk : ¬ k < 1 := by omega
  simp only [ctlWord, State.retraced_macv, State.retraced_ipv, BitVec.getLsbD_setWidth, BitVec.getLsbD_append,
    if_neg hk]

end Commands

/-- Settles O48: a command's checks and its writes outside the trace read neither `TRACE_EN` nor `TRACE`, but for `CSRR CTL`,
whose word carries `TRACE_EN` in bit 0. -/
theorem tracingChangesNothingElse : Obligations.TracingChangesNothingElse := by
  refine ⟨fun s t i h hw hi => ?_, fun s t h => ?_⟩
  · rw [h.eq_retraced]
    exact exec_same s _ _ hw hi
  · rw [h.eq_retraced]
    exact ⟨_, _, rfl, rfl, rfl, fun k hk => ctlWord_retraced_getLsbD s _ _ hk⟩

end Sys2Proof.Machine
end

section
/-! PROOFS. Memory and stops: what a command leaves in the byte-addressed spaces (20_memory.md R40, R41), and that no command
stops the model (60_exceptions.md R201). -/

namespace Sys2Proof.Machine

/-! ### The bytes after an update of the state (20_memory.md R40) -/

section Bytes
variable {s : State} {sp : Space} {i : SlotId} {p : Packet}

theorem State.byteAt_setRx_of_ne (b : Bytes) (k : Nat) (h : sp ≠ .rx) : (s.setRx b).byteAt sp k = s.byteAt sp k := by
  cases sp with
  | rx => exact absurd rfl h
  | _ => rfl

theorem State.byteAt_setTx_of_ne (b : Bytes) (k : Nat) (h : sp ≠ .tx) : (s.setTx b).byteAt sp k = s.byteAt sp k := by
  cases sp with
  | tx => exact absurd rfl h
  | _ => rfl

theorem State.byteAt_setN_of_ne (c : N16) (k : Nat) (h : sp ≠ .cell) : (s.setN c).byteAt sp k = s.byteAt sp k := by
  cases sp with
  | cell => exact absurd rfl h
  | _ => rfl

theorem State.byteAt_hdr {k : Nat} (h : s.slot i = some p) : s.byteAt (.hdr i) k = p.hdr[k]? := by
  simp [State.byteAt, State.space, h]

theorem State.byteAt_pay {k : Nat} (h : s.slot i = some p) : s.byteAt (.pay i) k = p.pay[k]? := by
  simp [State.byteAt, State.space, h]

/-- Replacing a slot changes no byte outside its own header and payload (10_state.md R13). -/
theorem State.byteAt_setSlot_of_ne (o : Option Packet) (k : Nat) (hh : sp ≠ .hdr i) (hp : sp ≠ .pay i) :
    (s.setSlot i o).byteAt sp k = s.byteAt sp k := by
  cases sp with
  | hdr j =>
    have hj : j ≠ i := fun e => hh (e ▸ rfl)
    simp only [State.byteAt, State.space, State.slot_setSlot_of_ne s o hj]
  | pay j =>
    have hj : j ≠ i := fun e => hp (e ▸ rfl)
    simp only [State.byteAt, State.space, State.slot_setSlot_of_ne s o hj]
  | _ => rfl

/-- Replacing the packet `p` of a slot by `q` changes no byte in which the two packets agree. -/
theorem State.byteAt_setSlot_of_agree {q : Packet} {k : Nat} (h : s.slot i = some p)
    (hh : sp = .hdr i → q.hdr[k]? = p.hdr[k]?) (hp : sp = .pay i → q.pay[k]? = p.pay[k]?) :
    (s.setSlot i (some q)).byteAt sp k = s.byteAt sp k := by
  have hq := s.slot_setSlot_same i (some q)
  by_cases e : sp = .hdr i
  · subst e
    rw [State.byteAt_hdr hq, State.byteAt_hdr h, hh rfl]
  · by_cases e' : sp = .pay i
    · subst e'
      rw [State.byteAt_pay hq, State.byteAt_pay h, hp rfl]
    · exact State.byteAt_setSlot_of_ne _ k e e'

/-- Setting a field that lies inside the header changes no other byte (41_codec.md R127). -/
theorem State.byteAt_setSlot_fset {r : FieldRow} {k : Nat} (v : Word) (h : s.slot i = some p)
    (hr : r.off + r.size ≤ p.hdr.length) (hk : sp = .hdr i → k < r.off ∨ r.off + r.size ≤ k) :
    (s.setSlot i (some (p.fset r v))).byteAt sp k = s.byteAt sp k := by
  have hlen : (fieldBytes r.kind v).length = r.size := fieldBytes_length r.kind v
  refine State.byteAt_setSlot_of_agree h (fun e => ?_) fun _ => rfl
  exact memWrite_getElem?_of_not_mem (hlen ▸ hr) (hlen ▸ hk e)

/-- The ARP response writes no space but the reply slot's two (42_response.md R165). -/
theorem State.byteAt_applyResponse_of_ne (r : Response) (k : Nat) (hh : sp ≠ .hdr i) (hp : sp ≠ .pay i) :
    (s.applyResponse i r).byteAt sp k = s.byteAt sp k := by
  unfold State.applyResponse
  cases r.reply with
  | none => rfl
  | some q => exact State.byteAt_setSlot_of_ne (s := (s.traceAll r.trs).emitAll r.ems) (some q) k hh hp

end Bytes

/-! ### The bytes after a command (20_memory.md R41) -/

/-- A halted unit and a fault leave every byte, so a command keeps the bytes that its effect keeps. -/
theorem Ended.byteAt_eq {s t : State} {P : Prop} {sp : Space} {k : Nat} (h : Ended s t P)
    (hP : P → t.byteAt sp k = s.byteAt sp k) : t.byteAt sp k = s.byteAt sp k := by
  rcases h with ⟨-, rfl⟩ | ⟨-, c, rfl⟩ | ⟨-, hp⟩
  · rfl
  · exact State.byteAt_congr (State.faulted_slots s c) rfl rfl rfl sp k
  · exact hP hp

/-- Of everything a command can do, only the effects of the storing commands touch the spaces. -/
theorem Ran.sameMemory {s t : State} {i : Instr} (h : Ran s i t) (hi : storesNothing i = true) : SameMemory s t := by
  cases h with
  | n16set v => cases hi
  | n16ldr v => cases hi
  | decode sa lay ho => cases hi
  | encode hp => cases hi
  | fset v hp hr => cases hi
  | pcopy sa hp => cases hi
  | pclr sa => cases hi
  | payrx hp => cases hi
  | txpay hp hlen => cases hi
  | respondReply sb hp hl => cases hi
  | respondSilent sb hp hevs => cases hi
  | _ => exact State.byteAt_congr rfl rfl rfl rfl

/-- `FSET` on a slot with a full header keeps every byte but the field's (41_codec.md R133). -/
theorem execFset_byteAt_eq {s t : State} {sa : SlotId} {sel : BitVec 4} {v : Word} {p : Packet} {r : FieldRow} {sp : Space}
    {k : Nat} (h : execFset sa sel v s = .next t) (hp : s.slot sa = some p) (hhdr : p.hdr.length = headerSize p.lay)
    (hr : fieldAt p.lay sel = some r) (hk : sp = .hdr sa → k < r.off ∨ r.off + r.size ≤ k) :
    t.byteAt sp k = s.byteAt sp k := by
  refine (execFset_next h).byteAt_eq ?_
  rintro ⟨p', r', hp', hr', -, rfl⟩
  obtain rfl : p = p' := Option.some.inj (hp.symm.trans hp')
  obtain rfl : r = r' := Option.some.inj (hr.symm.trans hr')
  exact State.byteAt_setSlot_fset v hp (hhdr ▸ fieldAt_bound hr) hk

/-- `TXPAY` keeps the header, and every byte outside the slot (41_codec.md R138). -/
theorem execTxpay_byteAt_eq {s t : State} {sa : SlotId} {sp : Space} {k : Nat} (h : execTxpay sa s = .next t)
    (hsp : sp ≠ .pay sa) : t.byteAt sp k = s.byteAt sp k := by
  refine (execTxpay_next h).byteAt_eq ?_
  rintro ⟨p, hp, -, rfl⟩
  exact State.byteAt_setSlot_of_agree hp (fun _ => rfl) fun e => absurd e hsp

/-! ### Where the model stops (60_exceptions.md R201, 43_system.md R184) -/

theorem finish_completes (s : State) (r : Except Cause State) : ∃ t, finish s r = .next t := by
  rcases finish_cases s r with ⟨t, -, h⟩ | ⟨c, -, h⟩
  · exact ⟨t, h⟩
  · exact ⟨_, h⟩

theorem command_completes (s : State) (r : Except Cause State) : ∃ t, command s r = .next t := by
  rcases command_cases s r with ⟨-, h⟩ | ⟨-, t, -, h⟩ | ⟨-, c, -, h⟩
  · exact ⟨s, h⟩
  · exact ⟨t, h⟩
  · exact ⟨_, h⟩

/-- `DISPATCH` stops only where nested dispatch is stuck, which this hardware's tables rule out (42_response.md R162). -/
theorem execDispatch_completes (lay : Layout) (s : State) : ∃ t, execDispatch lay s = .next t := by
  unfold execDispatch
  split
  · exact ⟨s, rfl⟩
  · cases s.config with
    | error c => exact ⟨_, rfl⟩
    | ok cfg =>
      obtain ⟨r, hr⟩ := dispatchResult_ok lay s.rx cfg
      simp only [hr]
      split <;> exact ⟨_, rfl⟩

/-- A well-formed command goes on: `DISPATCH` is never stuck, and every other command ends as the command cycle does. -/
theorem exec_completes (s : State) {i : Instr} (hw : i.wf = true) : ∃ t, exec i s = .next t := by
  cases i with
  | nop => exact ⟨s, rfl⟩
  | csrr csr => exact finish_completes s _
  | dispatch lay => exact execDispatch_completes lay s
  | arpRequest => cases hw
  | arpReply => cases hw
  | _ => exact command_completes s _

theorem readCsrr_wf {cw : Half} {v : Word} {i : Instr} (h : readCsrr cw v = .ok i) : i.wf = true := by
  unfold readCsrr at h
  split at h <;> cases h
  rfl

theorem readCsrw_wf {cw : Half} {v : Word} {i : Instr} (h : readCsrw cw v = .ok i) : i.wf = true := by
  unfold readCsrw at h
  split at h
  · cases h
  · split at h
    · cases h
      assumption
    · cases h

theorem readDecode_wf {cw : Half} {v : Word} {i : Instr} (h : readDecode cw v = .ok i) : i.wf = true := by
  unfold readDecode at h
  split at h <;> cases h
  rfl

theorem readDispatch_wf {cw : Half} {v : Word} {i : Instr} (h : readDispatch cw v = .ok i) : i.wf = true := by
  unfold readDispatch at h
  split at h <;> cases h
  rfl

/-! A row that reads without a check answers one instruction, whose form is plain; the four that check a number have their own
lemma above. -/

section Rows
variable {r : OpRow} {cw : Half} {v : Word} {i : Instr}

theorem systemRows_read_wf (hr : r ∈ systemRows) (h : r.read cw v = .ok i) : i.wf = true := by
  fin_cases hr
  · cases h
    rfl
  · exact readCsrr_wf (v := v) h
  · exact readCsrw_wf h

theorem primitiveRows_read_wf (hr : r ∈ primitiveRows) (h : r.read cw v = .ok i) : i.wf = true := by
  fin_cases hr <;> cases h <;> rfl

theorem codecRows_read_wf (hr : r ∈ codecRows) (h : r.read cw v = .ok i) : i.wf = true := by
  fin_cases hr
  · exact readDecode_wf (v := v) h
  all_goals
    cases h
    rfl

theorem responseRows_read_wf (hr : r ∈ responseRows) (h : r.read cw v = .ok i) : i.wf = true := by
  fin_cases hr
  · cases h
    rfl
  · exact readDispatch_wf (v := v) h
  · cases h
    rfl

/-- What a row of the opcode map reads is well formed, group by group (30_encoding.md R72). -/
theorem OpRow.read_wf (hr : r ∈ opRows) (h : r.read cw v = .ok i) : i.wf = true := by
  simp only [opRows, List.mem_append] at hr
  rcases hr with ((hr | hr) | hr) | hr
  · exact systemRows_read_wf hr h
  · exact primitiveRows_read_wf hr h
  · exact codecRows_read_wf hr h
  · exact responseRows_read_wf hr h

end Rows

theorem decode_wf {cw : Half} {wdata : Word} {i : Instr} (h : decode cw wdata = .ok i) : i.wf = true := by
  unfold decode at h
  split at h
  · exact OpRow.read_wf (List.mem_of_find?_eq_some ‹_›) h
  · cases h

/-- A step goes on, but for the load of a buffer that is too long. -/
theorem step_cases (s : State) :
    (∃ t, step s = .next t) ∨
    (∃ b rest, s.moves = .load b :: rest ∧ Config.maxBuf < b.length ∧ step s = .refused .loadTooLong) := by
  cases hm : s.moves with
  | nil => exact .inl ⟨s, step_idle hm⟩
  | cons m rest =>
    cases m with
    | load b =>
      rw [step_load hm]
      by_cases hb : b.length ≤ Config.maxBuf
      · exact .inl ⟨_, if_pos hb⟩
      · exact .inr ⟨b, rest, rfl, Nat.lt_of_not_le hb, if_neg hb⟩
    | observe => exact .inl ⟨_, step_observe hm⟩
    | reset => exact .inl ⟨_, step_reset hm⟩
    | command cw wdata =>
      cases hd : decode cw wdata with
      | ok i => exact .inl (step_command_ok hm hd ▸ exec_completes (s.advanced rest) (decode_wf hd))
      | error e => exact .inl ⟨_, step_command_error hm hd⟩

/-! ### The statements about memory and stops -/

/-- Settles O46: every well-formed command completes, every decoded one is well formed, and of the host's moves only a load can
be refused. -/
theorem noCommandStopsTheMachine : Obligations.NoCommandStopsTheMachine := by
  refine ⟨fun s i hw => exec_completes s hw, fun s r h => ?_, fun s r h => ?_⟩
  · rcases step_cases s with ⟨t, ht⟩ | ⟨b, rest, -, -, hs⟩
    · rw [ht] at h
      cases h
    · rw [hs] at h
      cases h
  · rcases step_cases s with ⟨t, ht⟩ | ⟨b, rest, hm, hb, hs⟩
    · rw [ht] at h
      cases h
    · rw [hs] at h
      cases h
      exact ⟨rfl, b, rest, hm, hb⟩

/-- Settles O52: a command that stores nothing writes neither slots nor `RX`, `TX` or `N`. -/
theorem commandsThatStoreNothingKeepMemory : Obligations.CommandsThatStoreNothingKeepMemory :=
  fun _ _ _ hi h => (exec_ran h).sameMemory hi

/-- Settles O53: each storing command writes one space or one slot, and `FSET` the bytes of one field. -/
theorem storingCommandsKeepOtherBytes : Obligations.StoringCommandsKeepOtherBytes := by
  intro s t sp k
  refine ⟨fun sa sel v p r h => execFset_byteAt_eq h, fun v h hn => ?n16set, fun v h hn => ?n16ldr, fun sa h ht => ?encode,
    fun sa h hr => ?payrx, fun sa h => execTxpay_byteAt_eq h, fun sa lay h hh hp => ?decode, fun sa sb h hh hp => ?pcopy,
    fun sa h hh hp => ?pclr, fun sa sb h hh hp => ?respond⟩
  case n16set => exact (execN16set_next h).byteAt_eq fun ⟨_, e⟩ => e ▸ State.byteAt_setN_of_ne _ k hn
  case n16ldr => exact (execN16ldr_next h).byteAt_eq fun ⟨_, e⟩ => e ▸ State.byteAt_setN_of_ne _ k hn
  case encode => exact (execEncode_next h).byteAt_eq fun ⟨_, _, e⟩ => e ▸ State.byteAt_setTx_of_ne _ k ht
  case payrx => exact (execPayrx_next h).byteAt_eq fun ⟨_, _, e⟩ => e ▸ State.byteAt_setRx_of_ne _ k hr
  case decode =>
    refine (execDecode_next h).byteAt_eq ?_
    rintro ⟨o, -, rfl⟩
    exact State.byteAt_setSlot_of_ne (s := s) o k hh hp
  case pcopy => exact (execPcopy_next h).byteAt_eq fun ⟨_, _, e⟩ => e ▸ State.byteAt_setSlot_of_ne _ k hh hp
  case pclr => exact (execPclr_next h).byteAt_eq fun e => e ▸ State.byteAt_setSlot_of_ne none k hh hp
  case respond =>
    exact (execRespond_next h).byteAt_eq fun ⟨_, _, _, _, _, e⟩ => e ▸ State.byteAt_applyResponse_of_ne _ k hh hp

end Sys2Proof.Machine
end

section
/-! PROOFS. The statements about the encoding: decoder and encoder undo each other, and the illegal words are those of
30_encoding.md R75. -/

namespace Sys2Proof.Machine
open Sys2Proof.Laws

/-! ### The row a word belongs to (30_encoding.md R72) -/

theorem OpRow.covers_iff {r : OpRow} {cw : Half} : r.covers cw = true ↔ cw &&& r.mask = r.pattern := by
  simp [OpRow.covers]

/-- The 25 `op` values of the opcode map are distinct. -/
theorem opRows_ops_nodup : (opRows.map fun r => opBits r.pattern).Nodup := by decide

/-- A word has the `op` of every row that covers it. -/
theorem opBits_of_covers {r : OpRow} {cw : Half} (hr : r ∈ opRows) (hc : r.covers cw = true) :
    opBits cw = opBits r.pattern :=
  OpRow.covers_op (opRows_mask_op r hr) hc

/-- The `op` names the row. -/
theorem opRow_eq_of_op {q r : OpRow} (hq : q ∈ opRows) (hr : r ∈ opRows) (h : opBits q.pattern = opBits r.pattern) : q = r :=
  List.inj_on_of_nodup_map opRows_ops_nodup hq hr h

/-- A word that a row covers is read by that row. -/
theorem decode_eq_read {r : OpRow} {cw : Half} (hr : r ∈ opRows) (hc : r.covers cw = true) (wdata : Word) :
    decode cw wdata = r.read cw wdata := by
  cases hf : opRows.find? (fun r => r.covers cw) with
  | none => exact absurd hc (List.find?_eq_none.mp hf r hr)
  | some q =>
    have hq := List.mem_of_find?_eq_some hf
    have hqc : q.covers cw = true := List.find?_some (p := fun r : OpRow => r.covers cw) hf
    obtain rfl : q = r := opRow_eq_of_op hq hr ((opBits_of_covers hq hqc).symm.trans (opBits_of_covers hr hc))
    simp only [decode, hf]

theorem decode_of_not_covered {cw : Half} (h : ∀ r ∈ opRows, ¬ r.covers cw = true) (wdata : Word) :
    ∃ e, decode cw wdata = .error e := by
  have hf : opRows.find? (fun r => r.covers cw) = none := List.find?_eq_none.mpr h
  simp [decode, hf]

/-- A legal word is covered by a row, which reads its operands. -/
theorem decode_ok_covered {cw : Half} {wdata : Word} {i : Instr} (h : decode cw wdata = .ok i) :
    ∃ r ∈ opRows, r.covers cw = true ∧ r.read cw wdata = .ok i := by
  by_cases hc : ∃ r ∈ opRows, r.covers cw = true
  · obtain ⟨r, hr, hc⟩ := hc
    exact ⟨r, hr, hc, decode_eq_read hr hc wdata ▸ h⟩
  · obtain ⟨e, he⟩ := decode_of_not_covered (fun r hr hcr => hc ⟨r, hr, hcr⟩) wdata
    cases he.symm.trans h

/-! ### Decoding an encoded instruction (30_encoding.md R71) -/

/-- An instruction's word is decoded by the row of its `op`, so that row need only read the instruction back.  The defaults do
for every row that reads its operands without a check. -/
theorem decode_encode_of_row {i : Instr} (hi : WordInRow.Statement i) (k : Nat) (hw : i.wf = true)
    (hk : k < opRows.length := by decide)
    (hop : opBits (encode i).1 = opBits opRows[k].pattern := by exact opBits_commandWord ..)
    (hread : opRows[k].read (encode i).1 (encode i).2 = .ok i := by
      simp [opRows, systemRows, primitiveRows, codecRows, responseRows, encode]) :
    decode (encode i).1 (encode i).2 = .ok i := by
  obtain ⟨r, hr, -, hc⟩ := hi hw
  obtain rfl : r = opRows[k] := opRow_eq_of_op hr (List.getElem_mem hk) ((opBits_of_covers hr hc).symm.trans hop)
  exact (decode_eq_read hr hc _).trans hread

theorem readCsrr_encode (csr : Csr) : readCsrr (encode (.csrr csr)).1 (encode (.csrr csr)).2 = .ok (.csrr csr) := by
  simp [readCsrr, encode]

theorem readCsrw_encode {csr : Csr} {v : Word} (hw : (Instr.csrw csr v).wf = true) :
    readCsrw (encode (.csrw csr v)).1 (encode (.csrw csr v)).2 = .ok (.csrw csr v) := by
  have hcsr : csr.writable = true := hw
  simp [readCsrw, encode, hcsr]

/-- The layout id of an encoded `DECODE` or `DISPATCH` is the layout's. -/
@[simp] theorem Layout.extractLsb'_setWidth_bits (lay : Layout) : (lay.bits.setWidth 4).extractLsb' 0 2 = lay.bits := by
  cases lay <;> rfl

theorem readDecode_encode (sa : SlotId) (lay : Layout) :
    readDecode (encode (.decode sa lay)).1 (encode (.decode sa lay)).2 = .ok (.decode sa lay) := by
  simp [readDecode, encode]

theorem readDispatch_encode (lay : Layout) :
    readDispatch (encode (.dispatch lay)).1 (encode (.dispatch lay)).2 = .ok (.dispatch lay) := by
  simp [readDispatch, encode]

/-- Settles O10: each instruction's word lies in its row, the row at the place given here, and that row reads back the operands
the word was made of. -/
theorem decodeOfEncode : Obligations.DecodeOfEncode := by
  intro i hw
  cases i with
  | nop => exact decode_encode_of_row WordInRow.nop 0 hw
  | csrr csr => exact decode_encode_of_row (WordInRow.csrr csr) 1 hw (hread := readCsrr_encode csr)
  | csrw csr v => exact decode_encode_of_row (WordInRow.csrw csr v) 2 hw (hread := readCsrw_encode hw)
  | swap16 v => exact decode_encode_of_row (WordInRow.swap16 v) 3 hw
  | n16set v => exact decode_encode_of_row (WordInRow.n16set v) 4 hw
  | n16get => exact decode_encode_of_row WordInRow.n16get 5 hw
  | n16ldr v => exact decode_encode_of_row (WordInRow.n16ldr v) 6 hw
  | n16str => exact decode_encode_of_row WordInRow.n16str 7 hw
  | n16d => exact decode_encode_of_row WordInRow.n16d 8 hw
  | maceq sa sel cmp => exact decode_encode_of_row (WordInRow.maceq sa sel cmp) 9 hw
  | ipeq sa sel cmp => exact decode_encode_of_row (WordInRow.ipeq sa sel cmp) 10 hw
  | ftrace sa sel => exact decode_encode_of_row (WordInRow.ftrace sa sel) 11 hw
  | decode sa lay => exact decode_encode_of_row (WordInRow.decode sa lay) 12 hw (hread := readDecode_encode sa lay)
  | encode sa => exact decode_encode_of_row (WordInRow.encode sa) 13 hw
  | fget sa sel => exact decode_encode_of_row (WordInRow.fget sa sel) 14 hw
  | fset sa sel v => exact decode_encode_of_row (WordInRow.fset sa sel v) 15 hw
  | paylen sa => exact decode_encode_of_row (WordInRow.paylen sa) 16 hw
  | pcopy sa sb => exact decode_encode_of_row (WordInRow.pcopy sa sb) 17 hw
  | pclr sa => exact decode_encode_of_row (WordInRow.pclr sa) 18 hw
  | payrx sa => exact decode_encode_of_row (WordInRow.payrx sa) 19 hw
  | txpay sa => exact decode_encode_of_row (WordInRow.txpay sa) 20 hw
  | ptrace sa => exact decode_encode_of_row (WordInRow.ptrace sa) 21 hw
  | respond sa sb => exact decode_encode_of_row (WordInRow.respond sa sb) 22 hw
  | dispatch lay => exact decode_encode_of_row (WordInRow.dispatch lay) 23 hw (hread := readDispatch_encode lay)
  | emit => exact decode_encode_of_row WordInRow.emit 24 hw
  | arpRequest => cases hw
  | arpReply => cases hw

/-! ### Encoding a decoded instruction (30_encoding.md R72) -/

theorem Csr.bits_of_ofBits {b : BitVec 4} {csr : Csr} (h : Csr.ofBits b = some csr) : csr.bits = b := by
  have hall : ∀ b : BitVec 4, ∀ c ∈ Csr.ofBits b, c.bits = b := by decide
  exact hall b csr h

theorem Layout.bits_of_ofBits {b : BitVec 2} {lay : Layout} (h : Layout.ofBits b = some lay) : lay.bits = b := by
  have hall : ∀ b : BitVec 2, ∀ l ∈ Layout.ofBits b, l.bits = b := by decide
  exact hall b lay h

@[simp] theorem Comparand.bits_ofBits (b : BitVec 2) (v : Word) : (Comparand.ofBits b v).bits = b := by
  obtain ⟨n, hn⟩ := b
  interval_cases n <;> rfl

section Word
variable {r : OpRow} {cw : Half}

/-- A field that the row's mask takes in whole is the pattern's (30_encoding.md R72, "how the masks are built"). -/
theorem field_of_covers (hc : r.covers cw = true) (start len : Nat)
    (hm : r.mask.extractLsb' start len = BitVec.allOnes len) :
    cw.extractLsb' start len = r.pattern.extractLsb' start len := by
  rw [← OpRow.covers_iff.mp hc, BitVec.extractLsb'_and, hm, BitVec.and_allOnes]

theorem saBits_of_covers (hc : r.covers cw = true) (hm : saBits r.mask = BitVec.allOnes 2) :
    saBits cw = saBits r.pattern :=
  field_of_covers hc 8 2 hm

theorem sbBits_of_covers (hc : r.covers cw = true) (hm : sbBits r.mask = BitVec.allOnes 2) :
    sbBits cw = sbBits r.pattern :=
  field_of_covers hc 10 2 hm

theorem selBits_of_covers (hc : r.covers cw = true) (hm : selBits r.mask = BitVec.allOnes 4) :
    selBits cw = selBits r.pattern :=
  field_of_covers hc 12 4 hm

theorem commandWord_eq {op : BitVec 8} {sa sb : BitVec 2} {sel : BitVec 4} (hop : opBits cw = op) (hsa : saBits cw = sa)
    (hsb : sbBits cw = sb) (hsel : selBits cw = sel) : commandWord op sa sb sel = cw := by
  rw [← hop, ← hsa, ← hsb, ← hsel, commandWord_fields]

/-- A row whose mask takes in every bit covers one word. -/
theorem pattern_eq_of_covers (hc : r.covers cw = true) (hm : r.mask = BitVec.allOnes 16) : r.pattern = cw := by
  rw [← OpRow.covers_iff.mp hc, hm, BitVec.and_allOnes]

/-- A row that uses `sa` alone covers the words made of its pattern and a slot. -/
theorem commandWord_sa_eq (hc : r.covers cw = true) (hm : r.mask = 0xFCFF) :
    commandWord (opBits r.pattern) (SlotId.ofBits (saBits cw)).bits (sbBits r.pattern) (selBits r.pattern) = cw :=
  commandWord_eq (OpRow.covers_op (hm ▸ rfl) hc) (SlotId.bits_ofBits _).symm (sbBits_of_covers hc (hm ▸ rfl))
    (selBits_of_covers hc (hm ▸ rfl))

/-- A row that uses `sa` and `sb` covers the words made of its pattern and two slots. -/
theorem commandWord_sa_sb_eq (hc : r.covers cw = true) (hm : r.mask = 0xF0FF) :
    commandWord (opBits r.pattern) (SlotId.ofBits (saBits cw)).bits (SlotId.ofBits (sbBits cw)).bits (selBits r.pattern) =
      cw :=
  commandWord_eq (OpRow.covers_op (hm ▸ rfl) hc) (SlotId.bits_ofBits _).symm (SlotId.bits_ofBits _).symm
    (selBits_of_covers hc (hm ▸ rfl))

/-- A row that uses `sa` and `sel` covers the words made of its pattern, a slot and a selector. -/
theorem commandWord_sa_sel_eq (hc : r.covers cw = true) (hm : r.mask = 0x0CFF) :
    commandWord (opBits r.pattern) (SlotId.ofBits (saBits cw)).bits (sbBits r.pattern) (selBits cw) = cw :=
  commandWord_eq (OpRow.covers_op (hm ▸ rfl) hc) (SlotId.bits_ofBits _).symm (sbBits_of_covers hc (hm ▸ rfl)) rfl

/-- A row that uses every field covers the words made of its pattern, a slot, a comparand and a selector. -/
theorem commandWord_sa_cmp_sel_eq (v : Word) (hc : r.covers cw = true) (hm : r.mask = 0x00FF) :
    commandWord (opBits r.pattern) (SlotId.ofBits (saBits cw)).bits (Comparand.ofBits (sbBits cw) v).bits (selBits cw) = cw :=
  commandWord_eq (OpRow.covers_op (hm ▸ rfl) hc) (SlotId.bits_ofBits _).symm (Comparand.bits_ofBits _ v).symm rfl

/-- A row that uses the CSR number alone covers the words made of its pattern and that number. -/
theorem commandWord_csr_eq {csr : Csr} (hcsr : Csr.ofBits (selBits cw) = some csr) (hc : r.covers cw = true)
    (hm : r.mask = 0x0FFF) : commandWord (opBits r.pattern) (saBits r.pattern) (sbBits r.pattern) csr.bits = cw :=
  commandWord_eq (OpRow.covers_op (hm ▸ rfl) hc) (saBits_of_covers hc (hm ▸ rfl)) (sbBits_of_covers hc (hm ▸ rfl))
    (Csr.bits_of_ofBits hcsr).symm

/-- A word whose bits 15 and 14 are zero has its layout id for `sel` (30_encoding.md R68). -/
theorem selBits_eq_layBits (h : cw.extractLsb' 14 2 = 0) : selBits cw = (layBits cw).setWidth 4 := by
  have hsel : cw.extractLsb' 14 2 ++ layBits cw = selBits cw := BitVec.extractLsb'_append_extractLsb'_eq_extractLsb' rfl
  rw [← hsel, h]
  exact (BitVec.setWidth_eq_append (by decide)).symm

/-- A row that takes a layout id in bits 13 and 12 and asks for zero above it covers words whose `sel` is that layout's id. -/
theorem selBits_of_layout {lay : Layout} (hlay : Layout.ofBits (layBits cw) = some lay) (hc : r.covers cw = true)
    (hm : r.mask.extractLsb' 14 2 = BitVec.allOnes 2) (hp : r.pattern.extractLsb' 14 2 = 0) :
    selBits cw = lay.bits.setWidth 4 := by
  rw [Layout.bits_of_ofBits hlay]
  exact selBits_eq_layBits ((field_of_covers hc 14 2 hm).trans hp)

end Word

/-! What the four rows that check a number read. -/

section Rows
variable {r : OpRow} {cw : Half} {v : Word} {i : Instr}

theorem readCsrr_ok (h : readCsrr cw v = .ok i) : ∃ csr, Csr.ofBits (selBits cw) = some csr ∧ i = .csrr csr := by
  unfold readCsrr at h
  split at h <;> cases h
  exact ⟨_, ‹_›, rfl⟩

theorem readCsrw_ok (h : readCsrw cw v = .ok i) :
    ∃ csr, Csr.ofBits (selBits cw) = some csr ∧ csr.writable = true ∧ i = .csrw csr v := by
  unfold readCsrw at h
  split at h
  · cases h
  · split at h <;> cases h
    exact ⟨_, ‹_›, ‹_›, rfl⟩

theorem readDecode_ok (h : readDecode cw v = .ok i) :
    ∃ lay, Layout.ofBits (layBits cw) = some lay ∧ i = .decode (SlotId.ofBits (saBits cw)) lay := by
  unfold readDecode at h
  split at h <;> cases h
  exact ⟨_, ‹_›, rfl⟩

theorem readDispatch_ok (h : readDispatch cw v = .ok i) :
    ∃ lay, Layout.ofBits (layBits cw) = some lay ∧ i = .dispatch lay := by
  unfold readDispatch at h
  split at h <;> cases h
  exact ⟨_, ‹_›, rfl⟩

/-! Row by row, in the order of the map: the word rebuilt from what the row read.  `( … :)` settles which row is meant before
the word is compared with the encoder's. -/

theorem systemRows_encode_word (hr : r ∈ systemRows) (hc : r.covers cw = true) (h : r.read cw v = .ok i) :
    (encode i).1 = cw := by
  fin_cases hr
  · cases h
    exact pattern_eq_of_covers hc rfl
  · obtain ⟨csr, hcsr, rfl⟩ := readCsrr_ok (v := v) h
    exact (commandWord_csr_eq hcsr hc rfl :)
  · obtain ⟨csr, hcsr, -, rfl⟩ := readCsrw_ok h
    exact (commandWord_csr_eq hcsr hc rfl :)

/-- Six rows without a field; `MACEQ` and `IPEQ`; `FTRACE`. -/
theorem primitiveRows_encode_word (hr : r ∈ primitiveRows) (hc : r.covers cw = true) (h : r.read cw v = .ok i) :
    (encode i).1 = cw := by
  fin_cases hr <;> cases h
  iterate 6
    · exact pattern_eq_of_covers hc rfl
  iterate 2
    · exact (commandWord_sa_cmp_sel_eq v hc rfl :)
  · exact (commandWord_sa_sel_eq hc rfl :)

/-- `DECODE`; `ENCODE`; `FGET` and `FSET`; `PAYLEN`; `PCOPY`; four rows with one slot. -/
theorem codecRows_encode_word (hr : r ∈ codecRows) (hc : r.covers cw = true) (h : r.read cw v = .ok i) :
    (encode i).1 = cw := by
  fin_cases hr
  · obtain ⟨lay, hlay, rfl⟩ := readDecode_ok (v := v) h
    exact commandWord_eq (OpRow.covers_op rfl hc) (SlotId.bits_ofBits _).symm (sbBits_of_covers hc rfl)
      (selBits_of_layout hlay hc rfl rfl)
  all_goals cases h
  · exact (commandWord_sa_eq hc rfl :)
  iterate 2
    · exact (commandWord_sa_sel_eq hc rfl :)
  · exact (commandWord_sa_eq hc rfl :)
  · exact (commandWord_sa_sb_eq hc rfl :)
  iterate 4
    · exact (commandWord_sa_eq hc rfl :)

theorem responseRows_encode_word (hr : r ∈ responseRows) (hc : r.covers cw = true) (h : r.read cw v = .ok i) :
    (encode i).1 = cw := by
  fin_cases hr
  · cases h
    exact (commandWord_sa_sb_eq hc rfl :)
  · obtain ⟨lay, hlay, rfl⟩ := readDispatch_ok (v := v) h
    exact commandWord_eq (OpRow.covers_op rfl hc) (saBits_of_covers hc rfl) (sbBits_of_covers hc rfl)
      (selBits_of_layout hlay hc rfl rfl)
  · cases h
    exact pattern_eq_of_covers hc rfl

/-- The instruction that a row reads from a word it covers has that word, group by group. -/
theorem opRows_encode_word (hr : r ∈ opRows) (hc : r.covers cw = true) (h : r.read cw v = .ok i) : (encode i).1 = cw := by
  simp only [opRows, List.mem_append] at hr
  rcases hr with ((hr | hr) | hr) | hr
  · exact systemRows_encode_word hr hc h
  · exact primitiveRows_encode_word hr hc h
  · exact codecRows_encode_word hr hc h
  · exact responseRows_encode_word hr hc h

end Rows

/-- Settles O11: the row that reads the word puts every bit of it into the instruction, and the encoding's own operand reads
back by the other round trip. -/
theorem encodeOfDecode : Obligations.EncodeOfDecode := by
  intro cw wdata i h
  obtain ⟨r, hr, hc, hread⟩ := decode_ok_covered h
  have hw : i.wf = true := decode_wf h
  have hword : (encode i).1 = cw := opRows_encode_word hr hc hread
  exact ⟨hw, hword, hword ▸ decodeOfEncode i hw⟩

/-! ### Illegal words (30_encoding.md R75) -/

/-- The word's operand is one that its `op` rules out: the cases (b), (c) and (d) of 30_encoding.md R75, in this order. -/
def ReservedOperand (cw : Half) : Prop :=
  ((opBits cw = 0x20 ∨ opBits cw = 0x31) ∧ layBits cw = 3) ∨
  ((opBits cw = 0x01 ∨ opBits cw = 0x02) ∧ 7 ≤ (selBits cw).toNat) ∨
  (opBits cw = 0x02 ∧ (selBits cw = 1 ∨ selBits cw = 2 ∨ selBits cw = 5 ∨ selBits cw = 6))

theorem Layout.ofBits_eq_none_iff (b : BitVec 2) : Layout.ofBits b = none ↔ b = 3 := by
  revert b
  decide

theorem Csr.ofBits_eq_none_iff (b : BitVec 4) : Csr.ofBits b = none ↔ 7 ≤ b.toNat := by
  revert b
  decide

theorem Csr.bits_readOnly_iff (csr : Csr) :
    csr.writable = false ↔ csr.bits = 1 ∨ csr.bits = 2 ∨ csr.bits = 5 ∨ csr.bits = 6 := by
  cases csr <;> decide

section Illegal
variable {r : OpRow} {cw : Half} {v : Word}

theorem readCsrr_error_iff : (∃ e, readCsrr cw v = .error e) ↔ 7 ≤ (selBits cw).toNat := by
  rw [← Csr.ofBits_eq_none_iff, readCsrr]
  cases Csr.ofBits (selBits cw) <;> simp

theorem readCsrw_error_iff : (∃ e, readCsrw cw v = .error e) ↔
    7 ≤ (selBits cw).toNat ∨ selBits cw = 1 ∨ selBits cw = 2 ∨ selBits cw = 5 ∨ selBits cw = 6 := by
  rw [← Csr.ofBits_eq_none_iff, readCsrw]
  cases hcsr : Csr.ofBits (selBits cw) with
  | none => simp
  | some csr =>
    rw [← Csr.bits_of_ofBits hcsr, ← Csr.bits_readOnly_iff]
    cases hw : csr.writable <;> simp [hw]

theorem readDecode_error_iff : (∃ e, readDecode cw v = .error e) ↔ layBits cw = 3 := by
  rw [← Layout.ofBits_eq_none_iff, readDecode]
  cases Layout.ofBits (layBits cw) <;> simp

theorem readDispatch_error_iff : (∃ e, readDispatch cw v = .error e) ↔ layBits cw = 3 := by
  rw [← Layout.ofBits_eq_none_iff, readDispatch]
  cases Layout.ofBits (layBits cw) <;> simp

/-- A row that reads without a check, its `op` none of the four that rule an operand out. -/
theorem error_iff_of_reads {i : Instr} (hread : r.read cw v = .ok i) (hop : opBits cw = opBits r.pattern)
    (hp : opBits r.pattern ≠ 0x01 ∧ opBits r.pattern ≠ 0x02 ∧ opBits r.pattern ≠ 0x20 ∧ opBits r.pattern ≠ 0x31) :
    (∃ e, r.read cw v = .error e) ↔ ReservedOperand cw := by
  rw [← hop] at hp
  obtain ⟨h1, h2, h3, h4⟩ := hp
  refine iff_of_false (fun ⟨e, he⟩ => by cases hread.symm.trans he) ?_
  rintro (⟨h | h, -⟩ | ⟨h | h, -⟩ | ⟨h, -⟩)
  · exact h3 h
  · exact h4 h
  · exact h1 h
  · exact h2 h
  · exact h2 h

theorem systemRows_error_iff (hr : r ∈ systemRows) (hop : opBits cw = opBits r.pattern) :
    (∃ e, r.read cw v = .error e) ↔ ReservedOperand cw := by
  fin_cases hr
  · exact error_iff_of_reads rfl hop (by decide)
  · have hop : opBits cw = 0x01 := hop
    simp [ReservedOperand, hop, readCsrr_error_iff]
  · have hop : opBits cw = 0x02 := hop
    simp [ReservedOperand, hop, readCsrw_error_iff]

theorem primitiveRows_error_iff (hr : r ∈ primitiveRows) (hop : opBits cw = opBits r.pattern) :
    (∃ e, r.read cw v = .error e) ↔ ReservedOperand cw := by
  fin_cases hr <;> exact error_iff_of_reads rfl hop (by decide)

theorem codecRows_error_iff (hr : r ∈ codecRows) (hop : opBits cw = opBits r.pattern) :
    (∃ e, r.read cw v = .error e) ↔ ReservedOperand cw := by
  fin_cases hr
  · have hop : opBits cw = 0x20 := hop
    simp [ReservedOperand, hop, readDecode_error_iff]
  all_goals exact error_iff_of_reads rfl hop (by decide)

theorem responseRows_error_iff (hr : r ∈ responseRows) (hop : opBits cw = opBits r.pattern) :
    (∃ e, r.read cw v = .error e) ↔ ReservedOperand cw := by
  fin_cases hr
  · exact error_iff_of_reads rfl hop (by decide)
  · have hop : opBits cw = 0x31 := hop
    simp [ReservedOperand, hop, readDispatch_error_iff]
  · exact error_iff_of_reads rfl hop (by decide)

/-- A row refuses just the reserved operands of its `op`, group by group. -/
theorem opRows_error_iff (hr : r ∈ opRows) (hop : opBits cw = opBits r.pattern) :
    (∃ e, r.read cw v = .error e) ↔ ReservedOperand cw := by
  simp only [opRows, List.mem_append] at hr
  rcases hr with ((hr | hr) | hr) | hr
  · exact systemRows_error_iff hr hop
  · exact primitiveRows_error_iff hr hop
  · exact codecRows_error_iff hr hop
  · exact responseRows_error_iff hr hop

end Illegal

/-- Settles O12: a word that no row covers is illegal, and a word that one covers is illegal when the row refuses its
operands. -/
theorem illegalWordsAreThoseOfTheRule : Obligations.IllegalWordsAreThoseOfTheRule := by
  intro cw wdata
  change _ ↔ _ ∨ ReservedOperand cw
  simp only [ne_eq, ← OpRow.covers_iff]
  by_cases hall : ∀ r ∈ opRows, ¬ r.covers cw = true
  · exact iff_of_true (decode_of_not_covered hall wdata) (.inl hall)
  · rw [or_iff_right hall]
    push Not at hall
    obtain ⟨r, hr, hc⟩ := hall
    rw [decode_eq_read hr hc, opRows_error_iff hr (opBits_of_covers hr hc)]

/-! ### The opcode map, written-out words, and the operation codes of ARP -/

/-- Settles O14: a word has one `op`, and the rows' `op` values are distinct. -/
theorem opcodeRowsAreDisjoint : Obligations.OpcodeRowsAreDisjoint := by
  intro cw
  refine (List.pairwise_map.mp opRows_ops_nodup).imp_of_mem fun {a b} ha hb hne hac => ?_
  rw [Bool.eq_false_iff]
  intro hbc
  exact hne ((opBits_of_covers ha hac).symm.trans (opBits_of_covers hb hbc))

/-- Settles O13: each word is the encoding of its instruction, which decodes back. -/
theorem writtenOutWordsDecode : Obligations.WrittenOutWordsDecode :=
  ⟨decodeOfEncode .nop rfl, decodeOfEncode (.csrr .txlen) rfl, decodeOfEncode (.csrw .lmac 1) rfl,
    decodeOfEncode (.n16ldr 1) rfl, decodeOfEncode (.maceq .p0 0 .zero) rfl, decodeOfEncode (.decode .p3 .ip4) rfl,
    decodeOfEncode (.fget .p0 15) rfl, decodeOfEncode (.pcopy .p2 .p1) rfl, decodeOfEncode (.respond .p0 .p1) rfl,
    decodeOfEncode (.dispatch .eth) rfl⟩

/-- The whole `oper` field is compared (30_encoding.md R62). -/
theorem ofCode_eq (v : Half) :
    ArpOper.ofCode v = if v = 0x0001 then some .request else if v = 0x0002 then some .reply else none := by
  have hv : v &&& 0xFFFF = v := BitVec.and_allOnes
  simp only [ArpOper.ofCode, hv, beq_iff_eq]

theorem ofCode_eq_some_iff (v : Half) (a : ArpOper) : ArpOper.ofCode v = some a ↔ v = a.code := by
  constructor
  · intro h
    rw [ofCode_eq] at h
    split_ifs at h with h1 h2 <;> cases h
    · exact h1
    · exact h2
  · rintro rfl
    cases a <;> rfl

/-- Settles O43: the code is compared whole, a decoded instruction is well formed and the two rows are not, and `exec` refuses
both by name. -/
theorem arpOperationCodesAreNoCommands : Obligations.ArpOperationCodesAreNoCommands := by
  refine ⟨fun v => ⟨ofCode_eq_some_iff v .request, ofCode_eq_some_iff v .reply⟩, fun cw wdata => ⟨?request, ?reply⟩,
    fun s => ⟨rfl, rfl⟩⟩
  case request =>
    intro h
    cases decode_wf h
  case reply =>
    intro h
    cases decode_wf h

end Sys2Proof.Machine
end

section
/-! PROOFS. The statements about the primitive commands: byte order, the n16 cell, the address comparisons and the trace of one
field (40_primitives.md). -/

namespace Sys2Proof.Machine
open Sys2Proof.Laws

/-! ### Two bytes and their number (40_primitives.md R90 to R94) -/

theorem toNat_append_bytes (a b : Byte) : (a ++ b).toNat = a.toNat * 256 + b.toNat := by
  rw [BitVec.toNat_append, ← Nat.shiftLeft_add_eq_or_of_lt b.isLt, Nat.shiftLeft_eq]

/-- A half word is its high byte before its low byte. -/
theorem append_bytes_of_half (v : Half) : v.extractLsb' 8 8 ++ v.extractLsb' 0 8 = v :=
  (BitVec.extractLsb'_append_extractLsb'_eq_extractLsb' rfl).trans BitVec.extractLsb'_eq_self

theorem toNat_lowByte (v : Half) : (v.extractLsb' 0 8).toNat = v.toNat % 256 := by
  rw [BitVec.extractLsb'_toNat, Nat.shiftRight_zero]

theorem toNat_highByte (v : Half) : (v.extractLsb' 8 8).toNat = v.toNat / 256 := by
  rw [BitVec.extractLsb'_toNat, Nat.shiftRight_eq_div_pow]
  exact Nat.mod_eq_of_lt (Nat.div_lt_of_lt_mul v.isLt)

/-- The byte at bit `k` of an operand narrowed to `w` bits is that byte of the operand. -/
theorem extractLsb'_setWidth_byte {w k : Nat} (v : Word) (h : k + 8 ≤ w) :
    (v.setWidth w).extractLsb' k 8 = BitVec.ofNat 8 (v.toNat / 2 ^ k) := by
  rw [BitVec.extractLsb'_setWidth_of_le h, BitVec.extractLsb', Nat.shiftRight_eq_div_pow]

@[simp] theorem swap16_append (a b : Byte) : swap16 (a ++ b) = b ++ a := by
  rw [swap16, BitVec.extractLsb'_append_eq_left, BitVec.extractLsb'_append_eq_right]

theorem toNat_swap16 (v : Half) : (swap16 v).toNat = v.toNat % 256 * 256 + v.toNat / 256 := by
  rw [swap16, toNat_append_bytes, toNat_lowByte, toNat_highByte]

theorem swap16_eq_ofNat (v : Half) : swap16 v = BitVec.ofNat 16 (v.toNat % 256 * 256 + v.toNat / 256) := by
  rw [← toNat_swap16, BitVec.ofNat_toNat, BitVec.setWidth_eq]

theorem swap16_swap16 (v : Half) : swap16 (swap16 v) = v :=
  (swap16_append _ _).trans (append_bytes_of_half v)

theorem swap16_eq_self_iff (v : Half) : swap16 v = v ↔ v.extractLsb' 8 8 = v.extractLsb' 0 8 := by
  rw [← BitVec.toNat_inj, ← BitVec.toNat_inj, toNat_swap16, toNat_highByte, toNat_lowByte]
  omega

theorem N16.get_eq (c : N16) : c.get = c.b0.toNat * 256 + c.b1.toNat := rfl

/-- The value of a cell as a half word: its bytes in network order. -/
theorem N16.ofNat_get (c : N16) : BitVec.ofNat 16 c.get = c.b0 ++ c.b1 := by
  rw [N16.get_eq, ← toNat_append_bytes, BitVec.ofNat_toNat, BitVec.setWidth_eq]

theorem N16.ofValue_append (a b : Byte) : N16.ofValue (a ++ b) = ⟨a, b⟩ := by
  rw [N16.ofValue, BitVec.extractLsb'_append_eq_left, BitVec.extractLsb'_append_eq_right]

theorem N16.get_ofValue (v : Half) : (N16.ofValue v).get = v.toNat := by
  rw [N16.get_eq, N16.ofValue, ← toNat_append_bytes, append_bytes_of_half]

theorem N16.ofValue_ofNat_get (c : N16) : N16.ofValue (BitVec.ofNat 16 c.get) = c := by
  rw [N16.ofNat_get, N16.ofValue_append]

/-- The host order is little, so a cell's raw view has its bytes the other way round (20_memory.md R44). -/
theorem N16.toHost_raw (c : N16) : toHost Config.hostOrder (c.raw Config.hostOrder) = swap16 (c.b1 ++ c.b0) := rfl

/-- Settles O56: `swap16` exchanges the two bytes a half word is made of, and a cell's value is its two bytes in network
order. -/
theorem swap16AndN16Laws : Obligations.Swap16AndN16Laws := by
  refine ⟨fun v => ⟨swap16_eq_ofNat v, swap16_swap16 v, swap16_eq_self_iff v⟩, N16.get_ofValue, fun c => ?_⟩
  refine ⟨N16.ofValue_ofNat_get c, ?_, N16.toHost_raw c⟩
  rw [N16.toHost_raw, swap16_append, N16.ofNat_get]

/-! ### A command's word with any data operand, and its checks one after the other (43_system.md R180) -/

/-- An instruction's word is decoded by the row of its `op` whatever `wdata` is, so that row need only be asked what it reads.
The defaults do for every row that reads its operands without a check. -/
theorem decode_word_of_row {i j : Instr} {wdata : Word} (hi : WordInRow.Statement i) (k : Nat) (hw : i.wf = true := by rfl)
    (hk : k < opRows.length := by decide)
    (hop : opBits (encode i).1 = opBits opRows[k].pattern := by exact opBits_commandWord ..)
    (hread : opRows[k].read (encode i).1 wdata = .ok j := by
      simp [opRows, systemRows, primitiveRows, codecRows, responseRows, encode]) :
    decode (encode i).1 wdata = .ok j := by
  obtain ⟨r, hr, -, hc⟩ := hi hw
  obtain rfl : r = opRows[k] := opRow_eq_of_op hr (List.getElem_mem hk) ((opBits_of_covers hr hc).symm.trans hop)
  exact (decode_eq_read hr hc _).trans hread

theorem command_bind_ok {α : Type} {s : State} {x : Except Cause α} {a : α} (h : x = .ok a) (f : α → Except Cause State) :
    command s (x >>= f) = command s (f a) := by
  rw [h]
  rfl

theorem command_bind_error {α : Type} {s : State} {x : Except Cause α} {c : Cause} (hf : s.NoFault) (h : x = .error c)
    (f : α → Except Cause State) : command s (x >>= f) = .next (s.faulted c) := by
  rw [h]
  exact command_error hf c

/-- A command with one check, once the check is past. -/
theorem command_bind_pure {α : Type} {s : State} {x : Except Cause α} {a : α} (hf : s.NoFault) (h : x = .ok a)
    (g : α → State) : command s (x >>= fun a => pure (g a)) = .next (g a) :=
  (command_bind_ok h _).trans (command_ok hf)

/-! ### Byte order and the cell (40_primitives.md R100 to R105) -/

/-- An operand of at most 16 bits, swapped and widened. -/
theorem setWidth_swap16 {v : Word} (h : v.toNat < 2 ^ 16) :
    (swap16 (v.setWidth 16)).setWidth 64 = BitVec.ofNat 64 (v.toNat % 256 * 256 + v.toNat / 256) := by
  rw [← BitVec.ofNat_toNat, toNat_swap16, BitVec.toNat_setWidth, Nat.mod_eq_of_lt h]

/-- Settles O18: the width check decides between the fault and the swapped operand. -/
theorem swap16ExchangesTheBytes : Obligations.Swap16ExchangesTheBytes := by
  refine fun s v => ⟨decodeOfEncode (.swap16 v) rfl, fun hf hv => ?narrow, fun hf hv => ?wide⟩
  case narrow =>
    rw [← setWidth_swap16 hv]
    exact command_bind_pure hf (operand_of_lt hv) _
  case wide => exact command_bind_error hf (operand_of_not_lt hv.not_gt) _

theorem highByte_setWidth (v : Word) : (v.setWidth 16).extractLsb' 8 8 = BitVec.ofNat 8 (v.toNat / 256) :=
  extractLsb'_setWidth_byte v (by decide)

theorem lowByte_setWidth (v : Word) : (v.setWidth 16).extractLsb' 0 8 = BitVec.ofNat 8 (v.toNat % 256) := by
  rw [extractLsb'_setWidth_byte v (by decide), pow_zero, Nat.div_one, ← BitVec.toNat_inj]
  exact (Nat.mod_mod _ _).symm

theorem N16.ofValue_setWidth (v : Word) :
    N16.ofValue (v.setWidth 16) = ⟨BitVec.ofNat 8 (v.toNat / 256), BitVec.ofNat 8 (v.toNat % 256)⟩ :=
  congrArg₂ N16.mk (highByte_setWidth v) (lowByte_setWidth v)

/-- The raw load of a little host takes the low byte first. -/
theorem N16.ofRaw_setWidth (v : Word) : N16.ofRaw Config.hostOrder (v.setWidth 16) =
    ⟨BitVec.ofNat 8 (v.toNat % 256), BitVec.ofNat 8 (v.toNat / 256)⟩ :=
  congrArg₂ N16.mk (lowByte_setWidth v) (highByte_setWidth v)

/-- Settles O19: both loads check the width alike and differ in which byte comes first. -/
theorem n16CellIsLoaded : Obligations.N16CellIsLoaded := by
  refine fun s v => ⟨decodeOfEncode (.n16set v) rfl, decodeOfEncode (.n16ldr v) rfl, fun hf hv => ?narrow,
    fun hf hv => ?wide⟩
  case narrow =>
    rw [← N16.ofValue_setWidth, ← N16.ofRaw_setWidth]
    exact ⟨command_bind_pure hf (operand_of_lt hv) _, command_bind_pure hf (operand_of_lt hv) _⟩
  case wide =>
    have hwide : operand 16 v = .error .eval := operand_of_not_lt hv.not_gt
    exact ⟨command_bind_error hf hwide _, command_bind_error hf hwide _⟩

/-- The raw view of a cell on a little host, widened. -/
theorem N16.setWidth_raw (c : N16) :
    (c.raw Config.hostOrder).setWidth 64 = BitVec.ofNat 64 (c.b0.toNat + c.b1.toNat * 256) := by
  rw [← BitVec.ofNat_toNat, Nat.add_comm, ← toNat_append_bytes]
  rfl

/-- Settles O20: neither read can fault. -/
theorem n16CellIsRead : Obligations.N16CellIsRead := by
  refine fun s wdata => ⟨decode_word_of_row WordInRow.n16get 5, decode_word_of_row WordInRow.n16str 7, fun hf => ?_⟩
  rw [← N16.get_eq, ← N16.setWidth_raw]
  exact ⟨command_ok hf, command_ok hf⟩

/-- Settles O21: the command has no fault condition and does not look at `TRACE_EN`. -/
theorem n16dTracesTheValue : Obligations.N16dTracesTheValue :=
  fun _ _ => ⟨decode_word_of_row WordInRow.n16d 8, fun hf => command_ok hf⟩

/-! ### Comparing an address field (40_primitives.md R106, R107) -/

theorem fieldOfKind_of_ne {lay : Layout} {sel : BitVec 4} {k : Kind} (h : ∀ r, fieldAt lay sel = some r → r.kind ≠ k) :
    fieldOfKind lay sel k = .error .esel := by
  cases hr : fieldAt lay sel with
  | none => simp [fieldOfKind, hr]
  | some r => simp [fieldOfKind, hr, h r hr]

/-- A field's bytes, its size given by its kind. -/
theorem Packet.fbytes_of_kind (p : Packet) {r : FieldRow} {k : Kind} (h : r.kind = k) :
    p.fbytes r = memRead p.hdr r.off k.size := by
  rw [Packet.fbytes, FieldRow.size, h]

/-- What `MACEQ` and `IPEQ` have in common: a field of kind `k` against the comparand's bytes, or its fault. -/
def compareField (k : Kind) (sa : SlotId) (sel : BitVec 4) (x : Except Cause Bytes) (s : State) : Out :=
  command s do
    let p ← s.packet sa
    let r ← fieldOfKind p.lay sel k
    let b ← x
    return s.setZ (decide (p.fbytes r = b))

theorem exec_maceq (sa : SlotId) (sel : BitVec 4) (cmp : Comparand) (s : State) :
    exec (.maceq sa sel cmp) s = compareField .mac sa sel (s.macComparand cmp) s := rfl

theorem exec_ipeq (sa : SlotId) (sel : BitVec 4) (cmp : Comparand) (s : State) :
    exec (.ipeq sa sel cmp) s = compareField .ip4 sa sel (s.ipComparand cmp) s := rfl

section CompareField
variable {s : State} {sa : SlotId} {sel : BitVec 4} {k : Kind} {x : Except Cause Bytes} {p : Packet} {r : FieldRow}

theorem compareField_of_empty (hf : s.NoFault) (hp : s.slot sa = none) :
    compareField k sa sel x s = .next (s.faulted .eslot) :=
  command_bind_error hf (State.packet_of_none hp) _

theorem compareField_of_no_field (hf : s.NoFault) (hp : s.slot sa = some p)
    (h : ∀ r, fieldAt p.lay sel = some r → r.kind ≠ k) : compareField k sa sel x s = .next (s.faulted .esel) :=
  (command_bind_ok (State.packet_of_some hp) _).trans (command_bind_error hf (fieldOfKind_of_ne h) _)

/-- Past `ESLOT` and `ESEL`, the comparand decides. -/
theorem compareField_of_field (hp : s.slot sa = some p) (hr : fieldAt p.lay sel = some r) (hk : r.kind = k) :
    compareField k sa sel x s = command s (x >>= fun b => pure (s.setZ (decide (memRead p.hdr r.off k.size = b)))) := by
  rw [← p.fbytes_of_kind hk]
  exact (command_bind_ok (State.packet_of_some hp) _).trans (command_bind_ok (fieldOfKind_of_some hr hk) _)

end CompareField

/-- The link address a 48-bit operand carries has the operand's six bytes. -/
theorem Mac.toBytes_ofBits_setWidth (v : Word) : (Mac.ofBits (v.setWidth 48)).toBytes = unpack 6 v.toNat := by
  simp [Mac.ofBits, Mac.toBytes, unpack, extractLsb'_setWidth_byte]

/-- The network address a 32-bit operand carries has the operand's four bytes. -/
theorem Ip4.toBytes_ofBits_setWidth (v : Word) : (Ip4.ofBits (v.setWidth 32)).toBytes = unpack 4 v.toNat := by
  simp [Ip4.ofBits, Ip4.toBytes, unpack, extractLsb'_setWidth_byte]

section Comparands
variable {s : State} {v : Word}

theorem State.macComparand_wdata (h : v.toNat < 2 ^ 48) : s.macComparand (.wdata v) = .ok (unpack 6 v.toNat) := by
  rw [State.macComparand, operand_of_lt h, ← Mac.toBytes_ofBits_setWidth]
  rfl

theorem State.macComparand_wide (h : ¬ v.toNat < 2 ^ 48) : s.macComparand (.wdata v) = .error .eval := by
  rw [State.macComparand, operand_of_not_lt h]
  rfl

theorem State.macComparand_local {a : Mac} (h : s.lmac = some a) : s.macComparand .localAddr = .ok a.toBytes := by
  rw [State.macComparand, State.localMac, h]
  rfl

theorem State.macComparand_unwritten (h : s.lmac = none) : s.macComparand .localAddr = .error .ecfg := by
  rw [State.macComparand, State.localMac, h]
  rfl

theorem State.ipComparand_wdata (h : v.toNat < 2 ^ 32) : s.ipComparand (.wdata v) = .ok (unpack 4 v.toNat) := by
  rw [State.ipComparand, operand_of_lt h, ← Ip4.toBytes_ofBits_setWidth]
  rfl

theorem State.ipComparand_wide (h : ¬ v.toNat < 2 ^ 32) : s.ipComparand (.wdata v) = .error .eval := by
  rw [State.ipComparand, operand_of_not_lt h]
  rfl

theorem State.ipComparand_local {a : Ip4} (h : s.lip = some a) : s.ipComparand .localAddr = .ok a.toBytes := by
  rw [State.ipComparand, State.localIp, h]
  rfl

theorem State.ipComparand_unwritten (h : s.lip = none) : s.ipComparand .localAddr = .error .ecfg := by
  rw [State.ipComparand, State.localIp, h]
  rfl

end Comparands

/-- Settles O22: the checks in their order, then one comparand after the other. -/
theorem maceqComparesALinkAddress : Obligations.MaceqComparesALinkAddress := by
  refine fun s sa sel cmp => ⟨fun wdata => decode_word_of_row (WordInRow.maceq sa sel cmp) 9,
    fun hf hp => compareField_of_empty hf hp, fun p hf hp => ⟨compareField_of_no_field hf hp, fun r hr hk => ?_⟩⟩
  rw [exec_maceq, compareField_of_field hp hr hk]
  cases cmp with
  | wdata v =>
    dsimp only
    split_ifs with hv
    · exact command_bind_pure hf (State.macComparand_wdata hv) _
    · exact command_bind_error hf (State.macComparand_wide hv) _
  | localAddr =>
    dsimp only
    split
    next ha => exact command_bind_error hf (State.macComparand_unwritten ha) _
    next a ha => exact command_bind_pure hf (State.macComparand_local ha) _
  | bcast => exact command_ok hf
  | zero => exact command_ok hf

/-- Settles O23: the checks in their order, then one comparand after the other. -/
theorem ipeqComparesANetworkAddress : Obligations.IpeqComparesANetworkAddress := by
  refine fun s sa sel cmp => ⟨fun wdata => decode_word_of_row (WordInRow.ipeq sa sel cmp) 10,
    fun hf hp => compareField_of_empty hf hp, fun p hf hp => ⟨compareField_of_no_field hf hp, fun r hr hk => ?_⟩⟩
  rw [exec_ipeq, compareField_of_field hp hr hk]
  cases cmp with
  | wdata v =>
    dsimp only
    split_ifs with hv
    · exact command_bind_pure hf (State.ipComparand_wdata hv) _
    · exact command_bind_error hf (State.ipComparand_wide hv) _
  | localAddr =>
    dsimp only
    split
    next ha => exact command_bind_error hf (State.ipComparand_unwritten ha) _
    next a ha => exact command_bind_pure hf (State.ipComparand_local ha) _
  | bcast => exact command_ok hf
  | zero => exact command_ok hf

/-! ### Tracing one field (40_primitives.md R108) -/

/-- Settles O24: the two checks in their order, then the field's event, whatever `TRACE_EN` is. -/
theorem ftraceTracesTheField : Obligations.FtraceTracesTheField := by
  refine fun s sa sel => ⟨fun wdata => decode_word_of_row (WordInRow.ftrace sa sel) 11,
    fun hf hp => command_bind_error hf (State.packet_of_none hp) _, fun p hf hp => ⟨fun hr => ?noRow, fun r hr => ?row⟩⟩
  case noRow =>
    exact (command_bind_ok (State.packet_of_some hp) _).trans (command_bind_error hf (fieldOf_of_none hr) _)
  case row => exact (command_bind_ok (State.packet_of_some hp) _).trans (command_bind_pure hf (fieldOf_of_some hr) _)

end Sys2Proof.Machine
end

section
/-! PROOFS. The statements about the packet codec: whole buffers, the laws of field access, and the codec commands
(41_codec.md). -/

namespace Sys2Proof.Machine
open Sys2Proof.Laws

/-! ### Whole buffers (41_codec.md R121 to R124) -/

theorem decodePacket_of_lt {lay : Layout} {b : Bytes} (h : b.length < headerSize lay) : decodePacket lay b = none :=
  if_pos h

theorem decodePacket_of_le {lay : Layout} {b : Bytes} (h : headerSize lay ≤ b.length) :
    decodePacket lay b = some ⟨lay, b.take (headerSize lay), b.drop (headerSize lay)⟩ :=
  if_neg h.not_gt

/-- Settles O54: a full header is the first part of the encoding, and the payload is the rest. -/
theorem codecRoundTrip : Obligations.CodecRoundTrip := by
  intro p hp
  have hlen : headerSize p.lay ≤ (encodePacket p).length := by
    rw [encodePacket, List.length_append, hp]
    exact Nat.le_add_right _ _
  rw [decodePacket_of_le hlen, encodePacket, ← hp, List.take_left, List.drop_left]

/-- Settles O55: header and payload are the two parts the buffer is cut into. -/
theorem codecPreservesEveryBuffer : Obligations.CodecPreservesEveryBuffer := by
  refine fun lay b => ⟨decodePacket_of_lt, fun h => ⟨_, decodePacket_of_le h, rfl, rfl, ?hdrLength, rfl, ?encode⟩⟩
  case hdrLength => exact List.length_take_of_le h
  case encode => exact List.take_append_drop _ b

/-! ### Bytes and the number they stand for (20_memory.md R43) -/

theorem pack_append_singleton (b : Bytes) (x : Byte) : pack (b ++ [x]) = pack b * 256 + x.toNat := by
  simp [pack]

theorem pack_lt (b : Bytes) : pack b < 256 ^ b.length := by
  induction b using List.reverseRecOn with
  | nil => decide
  | append_singleton b x ih =>
    rw [pack_append_singleton, List.length_append, List.length_singleton, pow_succ]
    have hx : x.toNat < 256 := x.isLt
    omega

/-- The least significant byte comes last. -/
theorem unpack_succ (k v : Nat) : unpack (k + 1) v = unpack k (v / 256) ++ [BitVec.ofNat 8 v] := by
  induction k with
  | zero => simp [unpack]
  | succ k ih =>
    have hhead : v / 256 ^ (k + 1) = v / 256 / 256 ^ k := by rw [pow_succ', Nat.div_div_eq_div_mul]
    rw [unpack, ih, unpack, hhead, List.cons_append]

theorem pack_unpack (k v : Nat) : pack (unpack k v) = v % 256 ^ k := by
  induction k generalizing v with
  | zero => rw [pow_zero, Nat.mod_one]; rfl
  | succ k ih =>
    rw [unpack_succ, pack_append_singleton, ih, pow_succ', Nat.mod_mul, BitVec.toNat_ofNat, Nat.mul_comm, Nat.add_comm]

theorem unpack_pack (b : Bytes) : unpack b.length (pack b) = b := by
  induction b using List.reverseRecOn with
  | nil => rfl
  | append_singleton b x ih =>
    have hx : x.toNat < 256 := x.isLt
    have hhigh : (pack b * 256 + x.toNat) / 256 = pack b := by omega
    have hlow : BitVec.ofNat 8 (pack b * 256 + x.toNat) = x := by
      apply BitVec.eq_of_toNat_eq
      rw [BitVec.toNat_ofNat]
      omega
    rw [List.length_append, List.length_singleton, unpack_succ, pack_append_singleton, hhigh, hlow, ih]

/-- Two runs of bytes of one length with one number are the same bytes. -/
theorem eq_of_pack_eq {a b : Bytes} (hlen : a.length = b.length) (h : pack a = pack b) : a = b := by
  rw [← unpack_pack a, ← unpack_pack b, hlen, h]

/-! ### A field's bytes and its value (30_encoding.md R69, 41_codec.md R126, R127) -/

/-- Whatever its kind, a field's value is the number its bytes pack. -/
theorem fieldValue_eq_pack {k : Kind} {b : Bytes} (h : b.length = k.size) : fieldValue k b = pack b := by
  cases k with
  | u8 =>
    obtain ⟨x, rfl⟩ := List.length_eq_one_iff.mp h
    simp [fieldValue, pack]
  | n16 =>
    obtain ⟨x, y, rfl⟩ := List.length_eq_two.mp h
    simp [fieldValue, be16, pack]
  | ip4 => rfl
  | mac => rfl

/-- Whatever its kind, a field stores an operand that fits it most significant byte first. -/
theorem fieldBytes_eq_unpack {k : Kind} {x : Word} (h : x.toNat < 2 ^ (8 * k.size)) :
    fieldBytes k x = unpack k.size x.toNat := by
  cases k with
  | u8 => simp [fieldBytes, unpack, Kind.size, BitVec.ofNat_toNat]
  | n16 => simp [fieldBytes, toBe16, unpack, Kind.size, extractLsb'_setWidth_byte]
  | ip4 => rw [fieldBytes, BitVec.toNat_setWidth, Nat.mod_eq_of_lt (b := 2 ^ 32) h, Kind.size]
  | mac => rw [fieldBytes, BitVec.toNat_setWidth, Nat.mod_eq_of_lt (b := 2 ^ 48) h, Kind.size]

theorem two_pow_eight_mul (n : Nat) : 2 ^ (8 * n) = 256 ^ n := pow_mul 2 8 n

/-- The value stored is the value read. -/
theorem fieldValue_fieldBytes {k : Kind} {x : Word} (h : x.toNat < 2 ^ (8 * k.size)) :
    fieldValue k (fieldBytes k x) = x.toNat := by
  rw [fieldValue_eq_pack (fieldBytes_length k x), fieldBytes_eq_unpack h, pack_unpack, ← two_pow_eight_mul,
    Nat.mod_eq_of_lt h]

theorem pack_lt_of_length {k : Kind} {b : Bytes} (h : b.length = k.size) : pack b < 2 ^ (8 * k.size) := by
  rw [two_pow_eight_mul, ← h]
  exact pack_lt b

/-- The bytes that store a field's own value are the field's own. -/
theorem fieldBytes_fieldValue {k : Kind} {b : Bytes} (h : b.length = k.size) :
    fieldBytes k (BitVec.ofNat 64 (fieldValue k b)) = b := by
  have hlt := pack_lt_of_length h
  have hsize : 2 ^ (8 * k.size) ≤ 2 ^ 64 := by cases k <;> decide
  have hnat : (BitVec.ofNat 64 (pack b)).toNat = pack b := by
    rw [BitVec.toNat_ofNat, Nat.mod_eq_of_lt (hlt.trans_le hsize)]
  rw [fieldValue_eq_pack h, fieldBytes_eq_unpack (hnat.symm ▸ hlt), hnat, ← h, unpack_pack]

/-! ### Reads and writes of a space at other offsets (20_memory.md R41) -/

theorem memRead_getElem? {space : Bytes} {off n k : Nat} (h : k < n) : (memRead space off n)[k]? = space[off + k]? := by
  rw [memRead, List.getElem?_take_of_lt h, List.getElem?_drop]

/-- Writing what is there changes nothing. -/
theorem memWrite_memRead_self {space : Bytes} {off n : Nat} (h : (memRead space off n).length = n) :
    memWrite space off (memRead space off n) = space := by
  rw [memWrite, h, List.append_assoc, memRead, ← List.drop_drop, List.take_append_drop, List.take_append_drop]

/-- A write leaves a read of other offsets alone. -/
theorem memRead_memWrite_of_disjoint {space b : Bytes} {off off' n : Nat} (h : off + b.length ≤ space.length)
    (hd : off + b.length ≤ off' ∨ off' + n ≤ off) : memRead (memWrite space off b) off' n = memRead space off' n := by
  apply List.ext_getElem?
  intro k
  by_cases hk : k < n
  · rw [memRead_getElem? hk, memRead_getElem? hk]
    exact memWrite_getElem?_of_not_mem h (by omega)
  · rw [memRead, memRead, List.getElem?_take_eq_none (by omega), List.getElem?_take_eq_none (by omega)]

/-! ### The rows of a layout's table tile its header (30_encoding.md R61, R66, R67) -/

theorem fieldTable_pairwise (lay : Layout) : (fieldTable lay).Pairwise fun r q => r.off + r.size ≤ q.off := by
  cases lay <;> decide

theorem fieldTable_covers (lay : Layout) :
    ∀ k < headerSize lay, ∃ r ∈ fieldTable lay, r.off ≤ k ∧ k < r.off + r.size := by
  cases lay <;> decide

theorem fieldTable_length_lt (lay : Layout) : (fieldTable lay).length < 2 ^ 4 := by
  cases lay <;> decide

/-- Every row of the table has a selector. -/
theorem exists_fieldAt_of_mem {lay : Layout} {r : FieldRow} (h : r ∈ fieldTable lay) : ∃ i, fieldAt lay i = some r := by
  obtain ⟨n, hn, hr⟩ := List.getElem_of_mem h
  have hi : (BitVec.ofNat 4 n).toNat = n := by
    rw [BitVec.toNat_ofNat, Nat.mod_eq_of_lt (hn.trans (fieldTable_length_lt lay))]
  exact ⟨BitVec.ofNat 4 n, by rw [fieldAt, hi, List.getElem?_eq_getElem hn, hr]⟩

theorem fieldAt_before {lay : Layout} {i j : BitVec 4} {r q : FieldRow} (hr : fieldAt lay i = some r)
    (hq : fieldAt lay j = some q) (hij : i.toNat < j.toNat) : r.off + r.size ≤ q.off := by
  obtain ⟨hi, rfl⟩ := List.getElem?_eq_some_iff.mp hr
  obtain ⟨hj, rfl⟩ := List.getElem?_eq_some_iff.mp hq
  exact List.pairwise_iff_getElem.mp (fieldTable_pairwise lay) _ _ hi hj hij

theorem fieldAt_disjoint {lay : Layout} {i j : BitVec 4} {r q : FieldRow} (hr : fieldAt lay i = some r)
    (hq : fieldAt lay j = some q) (hij : i ≠ j) : r.off + r.size ≤ q.off ∨ q.off + q.size ≤ r.off := by
  rcases Nat.lt_or_gt_of_ne (fun e => hij (BitVec.eq_of_toNat_eq e)) with h | h
  · exact .inl (fieldAt_before hr hq h)
  · exact .inr (fieldAt_before hq hr h)

/-! ### The laws of field access (41_codec.md R128) -/

section FieldLaws
variable {p : Packet} {r q : FieldRow}

theorem Packet.fget_eq_pack (h : r.off + r.size ≤ p.hdr.length) : p.fget r = pack (p.fbytes r) :=
  fieldValue_eq_pack (Packet.fbytes_length h)

theorem Packet.fbytes_fset_same (x : Word) (h : r.off + r.size ≤ p.hdr.length) :
    (p.fset r x).fbytes r = fieldBytes r.kind x := by
  have hlen : (fieldBytes r.kind x).length = r.size := fieldBytes_length r.kind x
  have hread := memRead_memWrite_same (space := p.hdr) (b := fieldBytes r.kind x) (off := r.off) (hlen.symm ▸ h)
  rwa [hlen] at hread

theorem Packet.fget_fset_same {x : Word} (h : r.off + r.size ≤ p.hdr.length) (hx : x.toNat < 2 ^ (8 * r.size)) :
    (p.fset r x).fget r = x.toNat := by
  rw [Packet.fget, Packet.fbytes_fset_same x h]
  exact fieldValue_fieldBytes hx

theorem Packet.fset_fget_self (h : r.off + r.size ≤ p.hdr.length) : p.fset r (BitVec.ofNat 64 (p.fget r)) = p := by
  have hlen : (p.fbytes r).length = r.size := Packet.fbytes_length h
  have hbytes : fieldBytes r.kind (BitVec.ofNat 64 (p.fget r)) = p.fbytes r := fieldBytes_fieldValue hlen
  have hhdr : memWrite p.hdr r.off (p.fbytes r) = p.hdr := memWrite_memRead_self hlen
  rw [Packet.fset, hbytes, Packet.patch, hhdr]

theorem Packet.fget_fset_of_disjoint (x : Word) (h : r.off + r.size ≤ p.hdr.length)
    (hd : r.off + r.size ≤ q.off ∨ q.off + q.size ≤ r.off) : (p.fset r x).fget q = p.fget q := by
  have hlen : (fieldBytes r.kind x).length = r.size := fieldBytes_length r.kind x
  have hbytes : (p.fset r x).fbytes q = p.fbytes q :=
    memRead_memWrite_of_disjoint (hlen.symm ▸ h) (hlen.symm ▸ hd)
  rw [Packet.fget, Packet.fget, hbytes]

/-- The header keeps its length and every byte outside the field, so the encoding does. -/
theorem Packet.encode_fset_getElem? (x : Word) {k : Nat} (h : r.off + r.size ≤ p.hdr.length)
    (hk : k < r.off ∨ r.off + r.size ≤ k) : (encodePacket (p.fset r x))[k]? = (encodePacket p)[k]? := by
  have hlen : (fieldBytes r.kind x).length = r.size := fieldBytes_length r.kind x
  have hhdr : (p.fset r x).hdr.length = p.hdr.length := memWrite_length (hlen.symm ▸ h)
  have hbyte : (p.fset r x).hdr[k]? = p.hdr[k]? := memWrite_getElem?_of_not_mem (hlen.symm ▸ h) (hlen.symm ▸ hk)
  have hpay : (p.fset r x).pay = p.pay := rfl
  rw [encodePacket, encodePacket, List.getElem?_append, List.getElem?_append, hhdr, hbyte, hpay]

end FieldLaws

/-- Equal values of a field are equal bytes of it. -/
theorem Packet.fbytes_eq_of_fget_eq {p q : Packet} {r : FieldRow} (hp : r.off + r.size ≤ p.hdr.length)
    (hq : r.off + r.size ≤ q.hdr.length) (h : p.fget r = q.fget r) : p.fbytes r = q.fbytes r := by
  rw [Packet.fget_eq_pack hp, Packet.fget_eq_pack hq] at h
  exact eq_of_pack_eq ((Packet.fbytes_length hp).trans (Packet.fbytes_length hq).symm) h

/-- A byte of the header inside a field is a byte of that field. -/
theorem Packet.hdr_getElem?_of_mem_field (p : Packet) {r : FieldRow} {k : Nat} (hlo : r.off ≤ k)
    (hhi : k < r.off + r.size) : p.hdr[k]? = (p.fbytes r)[k - r.off]? := by
  rw [Packet.fbytes, memRead_getElem? (by omega), Nat.add_sub_cancel' hlo]

/-- Every byte of a header lies in some field, so the fields' values determine it. -/
theorem Packet.hdr_eq_of_fget_eq {p q : Packet} (hl : p.lay = q.lay) (hp : p.hdr.length = headerSize p.lay)
    (hq : q.hdr.length = headerSize q.lay) (h : ∀ i r, fieldAt p.lay i = some r → p.fget r = q.fget r) :
    p.hdr = q.hdr := by
  have hpq : p.hdr.length = q.hdr.length := by rw [hp, hq, hl]
  apply List.ext_getElem?
  intro k
  by_cases hk : k < headerSize p.lay
  · obtain ⟨r, hr, hlo, hhi⟩ := fieldTable_covers p.lay k hk
    obtain ⟨i, hi⟩ := exists_fieldAt_of_mem hr
    have hbound : r.off + r.size ≤ p.hdr.length := hp ▸ fieldAt_bound hi
    have hbytes : p.fbytes r = q.fbytes r := Packet.fbytes_eq_of_fget_eq hbound (hpq ▸ hbound) (h i r hi)
    rw [p.hdr_getElem?_of_mem_field hlo hhi, q.hdr_getElem?_of_mem_field hlo hhi, hbytes]
  · rw [List.getElem?_eq_none (by omega), List.getElem?_eq_none (by omega)]

/-- Settles O57: a row lies inside the header and apart from every other row, and the rows together fill it. -/
theorem fieldAccessLaws : Obligations.FieldAccessLaws := by
  refine ⟨fun p i j r q x hp hr hq hx => ?_, fun p q hl hp hq h => Packet.hdr_eq_of_fget_eq hl hp hq h⟩
  have hbound : r.off + r.size ≤ p.hdr.length := hp ▸ fieldAt_bound hr
  exact ⟨Packet.fget_fset_same hbound hx, Packet.fset_fget_self hbound,
    fun hij => Packet.fget_fset_of_disjoint x hbound (fieldAt_disjoint hr hq hij),
    fun _ hk => Packet.encode_fset_getElem? x hbound hk⟩

/-! ### The codec commands (41_codec.md R130 to R139) -/

section Commands
variable {s : State} {sa : SlotId} {lay : Layout}

theorem execDecode_of_short (hf : s.NoFault) (h : s.rx.length < headerSize lay) :
    execDecode sa lay s = .next ((s.setSlot sa none).setV false) := by
  rw [execDecode, decodePacket_of_lt h]
  exact command_ok hf

theorem execDecode_of_long (hf : s.NoFault) (h : headerSize lay ≤ s.rx.length) :
    execDecode sa lay s = .next ((s.setSlot sa
      (some ⟨lay, s.rx.take (headerSize lay), s.rx.drop (headerSize lay)⟩)).setV true) := by
  rw [execDecode, decodePacket_of_le h]
  exact command_ok hf

end Commands

/-- Settles O25: the length of `RX` alone decides what the slot and `V` become. -/
theorem decodeFillsTheSlot : Obligations.DecodeFillsTheSlot := by
  refine fun s sa lay wdata => ⟨?legal, ?illegal, fun hf h => execDecode_of_short hf h, fun hf h => execDecode_of_long hf h⟩
  case legal => exact decode_word_of_row (WordInRow.decode sa lay) 12 (hread := readDecode_encode sa lay)
  case illegal =>
    have hop : opBits (commandWord 0x20 sa.bits 0 3) = 0x20 := opBits_commandWord ..
    have hlay : layBits (commandWord 0x20 sa.bits 0 3) = 3 := layBits_commandWord ..
    exact (illegalWordsAreThoseOfTheRule _ wdata).mpr (.inr (.inl ⟨.inl hop, hlay⟩))

/-- Settles O26: past `ESLOT`, `TX` is the slot's encoding. -/
theorem encodeStagesThePacket : Obligations.EncodeStagesThePacket :=
  fun _ sa => ⟨fun _ => decode_word_of_row (WordInRow.encode sa) 13,
    fun hf hp => command_bind_error hf (State.packet_of_none hp) _,
    fun _ hf hp => command_bind_pure hf (State.packet_of_some hp) _⟩

theorem memRead_getD {space : Bytes} {off n k : Nat} (h : k < n) :
    (memRead space off n).getD k 0 = space.getD (off + k) 0 := by
  rw [List.getD_eq_getElem?_getD, List.getD_eq_getElem?_getD, memRead_getElem? h]

/-- A field's value, its size given by its kind. -/
theorem Packet.fget_of_kind (p : Packet) {r : FieldRow} {k : Kind} (h : r.kind = k) :
    p.fget r = fieldValue k (memRead p.hdr r.off k.size) := by
  rw [Packet.fget, p.fbytes_of_kind h, h]

/-- Settles O27: the two checks in their order, then the field's value. -/
theorem fgetReadsTheField : Obligations.FgetReadsTheField := by
  refine fun s sa sel => ⟨fun wdata => decode_word_of_row (WordInRow.fget sa sel) 14,
    fun hf hp => command_bind_error hf (State.packet_of_none hp) _, fun p hf hp => ⟨fun hr => ?noRow, fun r hr => ?row⟩⟩
  case noRow =>
    exact (command_bind_ok (State.packet_of_some hp) _).trans (command_bind_error hf (fieldOf_of_none hr) _)
  case row =>
    have hexec : exec (.fget sa sel) s = .next (s.setRes (BitVec.ofNat 64 (p.fget r))) :=
      (command_bind_ok (State.packet_of_some hp) _).trans (command_bind_pure hf (fieldOf_of_some hr) _)
    cases hk : r.kind with
    | u8 =>
      rw [hexec, p.fget_of_kind hk, fieldValue, memRead_getD (by decide)]
      rfl
    | n16 =>
      rw [hexec, p.fget_of_kind hk, fieldValue, be16, memRead_getD (by decide), memRead_getD (by decide)]
      rfl
    | ip4 =>
      rw [hexec, p.fget_of_kind hk]
      rfl
    | mac =>
      rw [hexec, p.fget_of_kind hk]
      rfl

/-- Storing a number that fits replaces the field's bytes by those the number unpacks to. -/
theorem Packet.fset_eq (p : Packet) {r : FieldRow} {v : Word} (h : v.toNat < 2 ^ (8 * r.size)) :
    p.fset r v = { p with hdr := p.hdr.take r.off ++ unpack r.size v.toNat ++ p.hdr.drop (r.off + r.size) } := by
  have hbytes : fieldBytes r.kind v = unpack r.size v.toNat := fieldBytes_eq_unpack h
  rw [Packet.fset, hbytes, Packet.patch, memWrite, unpack_length]

/-- Settles O28: the three checks in their order, then the field's bytes replaced. -/
theorem fsetReplacesTheField : Obligations.FsetReplacesTheField := by
  refine fun s sa sel v => ⟨decodeOfEncode (.fset sa sel v) rfl,
    fun hf hp => command_bind_error hf (State.packet_of_none hp) _,
    fun p hf hp => ⟨fun hr => ?noRow, fun r hr => ⟨fun hv => ?wide, fun hv => ?fits⟩⟩⟩
  case noRow =>
    exact (command_bind_ok (State.packet_of_some hp) _).trans (command_bind_error hf (fieldOf_of_none hr) _)
  case wide =>
    exact (command_bind_ok (State.packet_of_some hp) _).trans
      ((command_bind_ok (fieldOf_of_some hr) _).trans (command_bind_error hf (operand_of_not_lt hv.not_gt) _))
  case fits =>
    rw [← p.fset_eq hv]
    exact (command_bind_ok (State.packet_of_some hp) _).trans
      ((command_bind_ok (fieldOf_of_some hr) _).trans (command_bind_pure hf (operand_of_lt hv) _))

/-- Settles O29: past `ESLOT`, `RES` is the payload's length. -/
theorem paylenReadsThePayloadLength : Obligations.PaylenReadsThePayloadLength :=
  fun _ sa => ⟨fun _ => decode_word_of_row (WordInRow.paylen sa) 16,
    fun hf hp => command_bind_error hf (State.packet_of_none hp) _,
    fun _ hf hp => command_bind_pure hf (State.packet_of_some hp) _⟩

/-- Putting into a slot what it holds changes nothing. -/
theorem State.setSlot_self {s : State} {i : SlotId} {o : Option Packet} (h : s.slot i = o) : s.setSlot i o = s := by
  subst h
  cases i <;> rfl

/-- Settles O30: past `ESLOT`, the destination is written, and a slot written with its own packet is as it was. -/
theorem pcopyClonesThePacket : Obligations.PcopyClonesThePacket := by
  refine fun s sa sb => ⟨fun wdata => decode_word_of_row (WordInRow.pcopy sa sb) 17,
    fun hf hp => command_bind_error hf (State.packet_of_none hp) _, fun p hf hp => ?_⟩
  have hexec : exec (.pcopy sa sb) s = .next (s.setSlot sa (some p)) :=
    command_bind_pure hf (State.packet_of_some hp) _
  refine ⟨hexec, fun hab => ?same, fun j => ?slots⟩
  case same => rw [hexec, State.setSlot_self (hab ▸ hp)]
  case slots =>
    split_ifs with hj
    · rw [hj, Slots.get_set_same]
    · exact Slots.get_set_of_ne s.slots _ hj

/-- Settles O31: the command has no fault condition. -/
theorem pclrEmptiesTheSlot : Obligations.PclrEmptiesTheSlot :=
  fun _ sa => ⟨fun _ => decode_word_of_row (WordInRow.pclr sa) 18, fun hf => command_ok hf⟩

/-- Settles O32: past `ESLOT`, `RX` is the payload. -/
theorem payrxHandsOverThePayload : Obligations.PayrxHandsOverThePayload :=
  fun _ sa => ⟨fun _ => decode_word_of_row (WordInRow.payrx sa) 19,
    fun hf hp => command_bind_error hf (State.packet_of_none hp) _,
    fun _ hf hp => command_bind_pure hf (State.packet_of_some hp) _⟩

/-- Past `ESLOT`, the length decides (41_codec.md R138). -/
theorem execTxpay_of_packet {s : State} {sa : SlotId} {p : Packet} (hp : s.slot sa = some p) :
    execTxpay sa s = command s (if headerSize p.lay + s.tx.length > Config.maxBuf then .error .elen
      else .ok (s.setSlot sa (some { p with pay := s.tx }))) :=
  command_bind_ok (State.packet_of_some hp) _

/-- Settles O33: the two checks in their order, then the payload replaced. -/
theorem txpayReplacesThePayload : Obligations.TxpayReplacesThePayload := by
  refine fun s sa => ⟨fun wdata => decode_word_of_row (WordInRow.txpay sa) 20,
    fun hf hp => command_bind_error hf (State.packet_of_none hp) _, fun p hf hp => ?_⟩
  have hexec : exec (.txpay sa) s = _ := execTxpay_of_packet hp
  refine ⟨fun hlong => ?long, fun hshort => ?short⟩
  case long =>
    rw [hexec, if_pos hlong]
    exact command_error hf .elen
  case short =>
    rw [hexec, if_neg hshort.not_gt]
    exact command_ok hf

theorem State.traceAll_nil (s : State) : s.traceAll [] = s := by
  rw [State.traceAll, List.append_nil]

/-- Settles O34: past `ESLOT`, `TRACE_EN` decides between the dump and no event. -/
theorem ptraceDumpsWhenTracing : Obligations.PtraceDumpsWhenTracing := by
  refine fun s sa => ⟨fun wdata => decode_word_of_row (WordInRow.ptrace sa) 21,
    fun hf hp => command_bind_error hf (State.packet_of_none hp) _, fun p hf hp => ?_⟩
  have hexec : exec (.ptrace sa) s = .next (s.traceAll (if s.traceEn then [dPkt p] else [])) :=
    command_bind_pure hf (State.packet_of_some hp) _
  refine ⟨fun hoff => ?off, fun hon => ?on⟩
  case off => rw [hexec, if_neg (by simp [hoff]), State.traceAll_nil]
  case on =>
    rw [hexec, if_pos hon]
    rfl

end Sys2Proof.Machine
end

section
/-! PROOFS. The statements about responses: the ARP response contract, nested dispatch layer by layer, and the response
commands (42_response.md). -/

namespace Sys2Proof.Machine
open Sys2Proof.Laws

/-! ### Fields as bytes (41_codec.md R126) -/

/-- A field has a value exactly when it has the bytes the value unpacks to. -/
theorem Packet.fget_eq_iff {p : Packet} {r : FieldRow} {v : Nat} (h : r.off + r.size ≤ p.hdr.length)
    (hv : v < 256 ^ r.size) : p.fget r = v ↔ p.fbytes r = unpack r.size v := by
  have hlen : (p.fbytes r).length = r.size := Packet.fbytes_length h
  rw [Packet.fget_eq_pack h]
  constructor
  · rintro rfl
    rw [← hlen, unpack_pack]
  · intro hb
    rw [hb, pack_unpack, Nat.mod_eq_of_lt hv]

theorem memRead_take {space : Bytes} {off n k : Nat} (h : off + n ≤ k) :
    memRead (space.take k) off n = memRead space off n := by
  rw [memRead, memRead, List.drop_take, List.take_take, Nat.min_eq_left (by omega)]

/-- A field of a decoded packet lies where the buffer has it. -/
theorem Packet.fbytes_of_decodePacket {lay : Layout} {b : Bytes} {p : Packet} {r : FieldRow}
    (hp : decodePacket lay b = some p) (hr : r.off + r.size ≤ headerSize lay) :
    p.fbytes r = memRead b r.off r.size := by
  obtain ⟨-, hhdr, -, -⟩ := decodePacket_some hp
  rw [Packet.fbytes, hhdr, memRead_take hr]

theorem decodePacket_hdr_length {lay : Layout} {b : Bytes} {p : Packet} (hp : decodePacket lay b = some p) :
    p.hdr.length = headerSize lay := by
  obtain ⟨-, hhdr, -, hlen⟩ := decodePacket_some hp
  rw [hhdr, List.length_take_of_le hlen]

/-! ### The reply (42_response.md R153) -/

/-- The header of the reply to a request with header `h`: its first six bytes, the code of a reply, the local addresses as
sources, the request's sources as destinations. -/
def arpReplyHeader (h : Bytes) (m : Mac) (a : Ip4) : Bytes :=
  h.take 6 ++ [0x00, 0x02] ++ m.toBytes ++ a.toBytes ++ memRead h 8 6 ++ memRead h 14 4

/-- The five writes of clone and patch overwrite everything from `oper` on. -/
theorem memWrite_arpReply {h : Bytes} (m : Mac) (a : Ip4) (hlen : h.length = 28) :
    memWrite (memWrite (memWrite (memWrite (memWrite h 6 [0x00, 0x02]) 18 (memRead h 8 6)) 24 (memRead h 14 4)) 8
      m.toBytes) 14 a.toBytes = arpReplyHeader h m a := by
  simp [memWrite, memRead, arpReplyHeader, Mac.toBytes, Ip4.toBytes, List.take_append, List.drop_append, List.take_take,
    List.drop_take, hlen]

theorem arpReplyPacket_eq {p : Packet} (cfg : Cfg) (hp : p.hdr.length = 28) :
    arpReplyPacket p cfg = ⟨p.lay, arpReplyHeader p.hdr cfg.lmac cfg.lip, p.pay⟩ :=
  congrArg (Packet.mk p.lay · p.pay) (memWrite_arpReply cfg.lmac cfg.lip hp)

/-- What the fields of the reply header are. -/
theorem memRead_arpReplyHeader {h : Bytes} (m : Mac) (a : Ip4) (hlen : h.length = 28) :
    memRead (arpReplyHeader h m a) 6 2 = [0x00, 0x02] ∧ memRead (arpReplyHeader h m a) 8 6 = m.toBytes ∧
      memRead (arpReplyHeader h m a) 14 4 = a.toBytes ∧ memRead (arpReplyHeader h m a) 18 6 = memRead h 8 6 ∧
      memRead (arpReplyHeader h m a) 24 4 = memRead h 14 4 ∧ (arpReplyHeader h m a).take 6 = h.take 6 := by
  simp [memRead, arpReplyHeader, Mac.toBytes, Ip4.toBytes, List.take_append, List.drop_append, List.take_take,
    List.drop_take, hlen]

/-! ### The ARP response contract (42_response.md R150 to R156) -/

section Contract
variable {p : Packet} {cfg : Cfg}

theorem arpAccepts_iff : arpAccepts p cfg = true ↔ p.fbytes Field.arpDstIp = cfg.lip.toBytes := decide_eq_true_iff

theorem arpOperation_eq_request_iff (hp : p.hdr.length = 28) :
    arpOperation p = some .request ↔ p.fget Field.arpOper = 1 := by
  have hbound : Field.arpOper.off + Field.arpOper.size ≤ p.hdr.length := hp.symm ▸ (by decide : 6 + 2 ≤ 28)
  have hlt : p.fget Field.arpOper < 2 ^ 16 := by
    rw [Packet.fget_eq_pack hbound]
    exact pack_lt_of_length (k := .n16) (Packet.fbytes_length hbound)
  rw [arpOperation, ofCode_eq_some_iff, ArpOper.code, ← BitVec.toNat_inj, BitVec.toNat_ofNat, Nat.mod_eq_of_lt hlt]
  rfl

theorem fget_arpOper_eq_one_iff (hp : p.hdr.length = 28) :
    p.fget Field.arpOper = 1 ↔ memRead p.hdr 6 2 = [0x00, 0x01] :=
  Packet.fget_eq_iff (hp.symm ▸ (by decide : 6 + 2 ≤ 28)) (by decide)

theorem respondArp_of_refused (h : p.fbytes Field.arpDstIp ≠ cfg.lip.toBytes) : respondArp p cfg = ⟨none, [], []⟩ := by
  rcases respondArp_cases p cfg with ⟨-, e⟩ | ⟨ha, -, -⟩ | ⟨ha, -, -⟩
  · exact e
  · exact absurd (arpAccepts_iff.mp ha) h
  · exact absurd (arpAccepts_iff.mp ha) h

theorem respondArp_of_ignored (hp : p.hdr.length = 28) (h : p.fbytes Field.arpDstIp = cfg.lip.toBytes)
    (ho : p.fget Field.arpOper ≠ 1) : respondArp p cfg = ⟨none, [], dumpIf cfg.traceEn p⟩ := by
  rcases respondArp_cases p cfg with ⟨ha, -⟩ | ⟨-, -, e⟩ | ⟨-, hr, -⟩
  · exact absurd (arpAccepts_iff.mpr h) (by simp [ha])
  · exact e
  · exact absurd ((arpOperation_eq_request_iff hp).mp hr) ho

theorem respondArp_of_request (hp : p.hdr.length = 28) (h : p.fbytes Field.arpDstIp = cfg.lip.toBytes)
    (ho : p.fget Field.arpOper = 1) :
    respondArp p cfg =
      ⟨some (arpReplyPacket p cfg), [[encodePacket (arpReplyPacket p cfg)]], dumpIf cfg.traceEn p⟩ := by
  rcases respondArp_cases p cfg with ⟨ha, -⟩ | ⟨-, hr, -⟩ | ⟨-, -, e⟩
  · exact absurd (arpAccepts_iff.mpr h) (by simp [ha])
  · exact absurd ((arpOperation_eq_request_iff hp).mpr ho) hr
  · exact e

/-- The filter and the code decide whether there is a reply. -/
theorem respondArp_reply (p : Packet) (cfg : Cfg) : (respondArp p cfg).reply =
    if arpAccepts p cfg = true ∧ arpOperation p = some .request then some (arpReplyPacket p cfg) else none := by
  rcases respondArp_cases p cfg with ⟨ha, e⟩ | ⟨-, hr, e⟩ | ⟨ha, hr, e⟩ <;> rw [e]
  · simp [ha]
  · simp [hr]
  · simp [ha, hr]

/-- The emissions are the reply's encoding, and nothing without a reply. -/
theorem respondArp_ems (p : Packet) (cfg : Cfg) :
    (respondArp p cfg).ems = (respondArp p cfg).reply.toList.map fun r => [encodePacket r] := by
  rcases respondArp_cases p cfg with ⟨-, e⟩ | ⟨-, -, e⟩ | ⟨-, -, e⟩ <;> rw [e] <;> rfl

/-- `dst_mac` is read neither by the filter nor by the dispatch on the code, and is overwritten in the reply. -/
theorem respondArp_reply_patch_dstMac {x : Bytes} (hp : p.hdr.length = 28) (hx : x.length = 6) :
    (respondArp (p.patch Field.arpDstMac x) cfg).reply = (respondArp p cfg).reply := by
  have hlen : (p.patch Field.arpDstMac x).hdr.length = 28 := Packet.patch_hdr_length hp hx (by decide)
  have hother : ∀ off n, off + n ≤ 18 ∨ 24 ≤ off →
      memRead (p.patch Field.arpDstMac x).hdr off n = memRead p.hdr off n := fun off n h =>
    memRead_memWrite_of_disjoint (by rw [hx, hp]; decide) (by rw [hx]; exact h.symm)
  have haccepts : arpAccepts (p.patch Field.arpDstMac x) cfg = arpAccepts p cfg :=
    congrArg (ipEq · cfg.lip.toBytes) (hother 24 4 (.inr (by decide)))
  have hoper : arpOperation (p.patch Field.arpDstMac x) = arpOperation p :=
    congrArg (fun b => ArpOper.ofCode (BitVec.ofNat 16 (be16 b))) (hother 6 2 (.inl (by decide)))
  have hhdr : arpReplyHeader (p.patch Field.arpDstMac x).hdr cfg.lmac cfg.lip =
      arpReplyHeader p.hdr cfg.lmac cfg.lip := by
    have htake : (p.patch Field.arpDstMac x).hdr.take 6 = p.hdr.take 6 := hother 0 6 (.inl (by decide))
    rw [arpReplyHeader, htake, hother 8 6 (.inl (by decide)), hother 14 4 (.inl (by decide)), arpReplyHeader]
  rw [respondArp_reply, respondArp_reply, haccepts, hoper, arpReplyPacket_eq cfg hlen, arpReplyPacket_eq cfg hp, hhdr]
  rfl

end Contract

/-- Settles O58: the three ways the contract can go, the reply's fields read off its header, and what neither `dst_mac` nor
tracing changes. -/
theorem arpResponseContract : Obligations.ArpResponseContract := by
  refine fun p cfg hl hp => ⟨fun h => ?refused, fun ho => ?ignored, fun h ho => ?answered, fun x hx => ?dstMac,
    fun en => ?traced⟩
  case refused => rw [respondArp_of_refused h]; exact ⟨rfl, rfl⟩
  case ignored =>
    by_cases h : p.fbytes Field.arpDstIp = cfg.lip.toBytes
    · rw [respondArp_of_ignored hp h ho]
    · rw [respondArp_of_refused h]
  case answered =>
    have hlen := arpReplyPacket_hdr_length cfg hp
    have hdecode : decodePacket .arp (encodePacket (arpReplyPacket p cfg)) = some (arpReplyPacket p cfg) :=
      hl ▸ codecRoundTrip (arpReplyPacket p cfg) (by rw [arpReplyPacket_lay, hl, hlen]; rfl)
    have hsize : (encodePacket (arpReplyPacket p cfg)).length = (encodePacket p).length := by
      rw [encodePacket, encodePacket, List.length_append, List.length_append, hlen, hp, arpReplyPacket_pay]
    rw [respondArp_of_request hp h ho]
    refine ⟨_, _, rfl, rfl, hdecode, ?_⟩
    rw [Packet.fget_eq_iff (by rw [hlen]; decide) (by decide), hsize, h]
    obtain ⟨hoper, hsm, hsi, hdm, hdi, hfirst⟩ := memRead_arpReplyHeader cfg.lmac cfg.lip hp
    rw [arpReplyPacket_eq cfg hp]
    exact ⟨hoper, hsm, hsi, hdm, hdi, hfirst, rfl, rfl, hsi⟩
  case dstMac =>
    have hreply := respondArp_reply_patch_dstMac (cfg := cfg) hp hx
    exact ⟨hreply, by rw [respondArp_ems, hreply, ← respondArp_ems]⟩
  case traced =>
    obtain ⟨hreply, hems⟩ := respondArp_retraced p cfg en
    exact ⟨hreply.symm, hems.symm⟩

/-! ### Nested dispatch, layer by layer (42_response.md R157 to R162) -/

theorem handle_of_short (T : Tables) (depth : Nat) {lay : Layout} {b : Bytes} (cfg : Cfg)
    (h : decodePacket lay b = none) : handle T (depth + 1) lay b cfg = .ok ⟨[], []⟩ := by
  rw [handle, h]

theorem dispatchResult_of_short {lay : Layout} {b : Bytes} (cfg : Cfg) (h : b.length < headerSize lay) :
    dispatchResult lay b cfg = .ok ⟨[], []⟩ :=
  handle_of_short tables _ cfg (decodePacket_of_lt h)

section Layers
variable {b : Bytes} {p : Packet} {cfg : Cfg}

theorem dispatchResult_arp (hp : decodePacket .arp b = some p) :
    dispatchResult .arp b cfg = .ok ⟨(respondArp p cfg).ems, (respondArp p cfg).trs⟩ := by
  have h := handle_arp tables 0 b cfg
  rw [hp] at h
  exact h

theorem dispatchResult_ip4 (hp : decodePacket .ip4 b = some p) :
    dispatchResult .ip4 b cfg = .ok ⟨[], if acceptsOf .ip4 p cfg then dumpIf cfg.traceEn p else []⟩ := by
  have h := handle_ip4 1 b cfg
  rw [hp] at h
  exact h

/-- The nesting below ETH is deep enough for whatever ETH registers. -/
theorem handle_registered {t : Nat} {lay : Layout} (b : Bytes) (cfg : Cfg) (h : registryOf .eth t = some lay) :
    handle tables 2 lay b cfg = dispatchResult lay b cfg := by
  cases lay with
  | arp => exact (handle_arp tables 1 b cfg).trans (handle_arp tables 0 b cfg).symm
  | ip4 => rfl
  | eth =>
    unfold registryOf at h
    dsimp only at h
    split_ifs at h <;> cases h

theorem dispatchResult_eth_refused (hp : decodePacket .eth b = some p) (ha : ¬ acceptsOf .eth p cfg = true) :
    dispatchResult .eth b cfg = .ok ⟨[], []⟩ := by
  have h := handle_eth 2 b cfg
  simp only [hp, if_neg ha] at h
  exact h

theorem dispatchResult_eth_unregistered (hp : decodePacket .eth b = some p) (ha : acceptsOf .eth p cfg = true)
    (hr : registryOf .eth (p.fget Field.ethEtype) = none) :
    dispatchResult .eth b cfg = .ok ⟨[], dumpIf cfg.traceEn p⟩ := by
  have h := handle_eth 2 b cfg
  simp only [hp, if_pos ha, hr] at h
  exact h

/-- The header put before what the inner layer emits: `dst := src`, `src := LMAC` (42_response.md R160). -/
def ethReplyHeader (h : Bytes) (m : Mac) : Bytes := memWrite (memWrite h 0 (memRead h 6 6)) 6 m.toBytes

theorem dispatchResult_eth_registered {lay : Layout} {inner : Handled} (hp : decodePacket .eth b = some p)
    (ha : acceptsOf .eth p cfg = true) (hr : registryOf .eth (p.fget Field.ethEtype) = some lay)
    (hin : dispatchResult lay p.pay cfg = .ok inner) :
    dispatchResult .eth b cfg =
      .ok ⟨wrapAll (ethReplyHeader p.hdr cfg.lmac) inner.ems, dumpIf cfg.traceEn p ++ inner.trs⟩ := by
  have h := handle_eth 2 b cfg
  simp only [hp, if_pos ha, hr, handle_registered p.pay cfg hr, hin] at h
  exact h

/-! ### The filters and the registry, by bytes (42_response.md R158, R159) -/

theorem acceptsOf_eth_iff (hp : decodePacket .eth b = some p) :
    acceptsOf .eth p cfg = true ↔ memRead b 0 6 = cfg.lmac.toBytes ∨ memRead b 0 6 = List.replicate 6 0xFF := by
  have hdst : p.fbytes Field.ethDst = memRead b 0 6 := Packet.fbytes_of_decodePacket hp (by decide)
  rw [acceptsOf, hdst, Bool.or_eq_true, macEq, macEq, decide_eq_true_iff, decide_eq_true_iff]
  rfl

theorem acceptsOf_ip4_iff (hp : decodePacket .ip4 b = some p) :
    acceptsOf .ip4 p cfg = true ↔ memRead b 16 4 = cfg.lip.toBytes ∨ memRead b 16 4 = bcastIp.toBytes := by
  have hdst : p.fbytes Field.ip4Dst = memRead b 16 4 := Packet.fbytes_of_decodePacket hp (by decide)
  rw [acceptsOf, hdst, Bool.or_eq_true, ipEq, ipEq, decide_eq_true_iff, decide_eq_true_iff]

theorem fget_ethEtype_eq_iff (hp : decodePacket .eth b = some p) {t : Nat} (ht : t < 65536) :
    p.fget Field.ethEtype = t ↔ memRead b 12 2 = unpack 2 t := by
  have hbound : Field.ethEtype.off + Field.ethEtype.size ≤ p.hdr.length := (decodePacket_hdr_length hp).ge
  have hbytes : p.fbytes Field.ethEtype = memRead b 12 2 := Packet.fbytes_of_decodePacket hp (by decide)
  rw [Packet.fget_eq_iff hbound ht, hbytes]
  rfl

theorem registryOf_eth_arp (hp : decodePacket .eth b = some p) (ht : memRead b 12 2 = [0x08, 0x06]) :
    registryOf .eth (p.fget Field.ethEtype) = some .arp := by
  have h : p.fget Field.ethEtype = 0x0806 := (fget_ethEtype_eq_iff hp (by decide)).mpr ht
  rw [h]
  rfl

theorem registryOf_eth_ip4 (hp : decodePacket .eth b = some p) (ht : memRead b 12 2 = [0x08, 0x00]) :
    registryOf .eth (p.fget Field.ethEtype) = some .ip4 := by
  have h : p.fget Field.ethEtype = 0x0800 := (fget_ethEtype_eq_iff hp (by decide)).mpr ht
  rw [h]
  rfl

theorem registryOf_eth_none (hp : decodePacket .eth b = some p) (harp : memRead b 12 2 ≠ [0x08, 0x06])
    (hip4 : memRead b 12 2 ≠ [0x08, 0x00]) : registryOf .eth (p.fget Field.ethEtype) = none := by
  have h1 : p.fget Field.ethEtype ≠ 0x0806 := fun h => harp ((fget_ethEtype_eq_iff hp (by decide)).mp h)
  have h2 : p.fget Field.ethEtype ≠ 0x0800 := fun h => hip4 ((fget_ethEtype_eq_iff hp (by decide)).mp h)
  rw [registryOf, if_neg h1, if_neg h2]

theorem dumpIf_of_decodePacket {lay : Layout} (hp : decodePacket lay b = some p) (en : Bool) :
    dumpIf en p = if en then [.pkt lay (b.take (headerSize lay)) (b.length - headerSize lay)] else [] := by
  obtain ⟨hl, hhdr, hpay, -⟩ := decodePacket_some hp
  rw [dumpIf, dPkt, hl, hhdr, hpay, List.length_drop]

/-- IP4 emits nothing, so neither does a frame that carries it. -/
theorem dispatchResult_ip4_ems (b : Bytes) (cfg : Cfg) : ∃ trs, dispatchResult .ip4 b cfg = .ok ⟨[], trs⟩ := by
  cases hp : decodePacket .ip4 b with
  | none => exact ⟨[], handle_of_short tables 1 cfg hp⟩
  | some p => exact ⟨_, dispatchResult_ip4 hp⟩

end Layers

/-- Settles O60: a buffer long enough for the layer's header decodes, and then the filter and the type field decide. -/
theorem nestedDispatchLayerByLayer : Obligations.NestedDispatchLayerByLayer := by
  refine fun b cfg => ⟨fun lay h => dispatchResult_of_short cfg h, fun p hp => dispatchResult_arp hp,
    fun hb hm hbc => ?refusedFrame, fun hb ha => ⟨fun harp hip4 => ?unregistered, fun ht => ?carriesIp4⟩,
    fun hb hl hbc => ?refusedPacket, fun hb ha => ?acceptedPacket⟩
  case refusedFrame =>
    have hp := decodePacket_of_le (lay := .eth) hb
    exact dispatchResult_eth_refused hp fun h => ((acceptsOf_eth_iff hp).mp h).elim hm hbc
  case unregistered =>
    have hp := decodePacket_of_le (lay := .eth) hb
    have h := dispatchResult_eth_unregistered hp ((acceptsOf_eth_iff hp).mpr ha) (registryOf_eth_none hp harp hip4)
    rwa [dumpIf_of_decodePacket hp] at h
  case carriesIp4 =>
    have hp := decodePacket_of_le (lay := .eth) hb
    obtain ⟨trs, hin⟩ := dispatchResult_ip4_ems (b.drop 14) cfg
    have h := dispatchResult_eth_registered hp ((acceptsOf_eth_iff hp).mpr ha) (registryOf_eth_ip4 hp ht) hin
    rw [dumpIf_of_decodePacket hp] at h
    exact ⟨_, hin, h⟩
  case refusedPacket =>
    have hp := decodePacket_of_le (lay := .ip4) hb
    rw [dispatchResult_ip4 hp, if_neg fun h => ((acceptsOf_ip4_iff hp).mp h).elim hl hbc]
  case acceptedPacket =>
    have hp := decodePacket_of_le (lay := .ip4) hb
    rw [dispatchResult_ip4 hp, if_pos ((acceptsOf_ip4_iff hp).mpr ha), dumpIf_of_decodePacket hp]
    rfl

/-! ### What nested dispatch emits (42_response.md, the consequences after R162) -/

/-- No emission, or one of one buffer of `n` bytes. -/
def AtMostOneBuffer (n : Nat) (ems : List (List Bytes)) : Prop := ems = [] ∨ ∃ g, ems = [[g]] ∧ g.length = n

theorem AtMostOneBuffer.wrapAll {n : Nat} {ems : List (List Bytes)} (h : AtMostOneBuffer n ems) (hdr : Bytes) :
    AtMostOneBuffer (hdr.length + n) (wrapAll hdr ems) := by
  rcases h with rfl | ⟨g, rfl, rfl⟩
  · exact .inl rfl
  · exact .inr ⟨hdr ++ g, rfl, List.length_append⟩

theorem AtMostOneBuffer.tooLong_eq_false {n : Nat} {ems : List (List Bytes)} (h : AtMostOneBuffer n ems)
    (hn : n ≤ Config.maxBuf) : tooLong ems = false := by
  rcases h with rfl | ⟨g, rfl, rfl⟩
  · rfl
  · exact tooLong_singleton hn

theorem respondArp_atMostOneBuffer {p : Packet} (cfg : Cfg) (hp : p.hdr.length = 28) :
    AtMostOneBuffer (28 + p.pay.length) (respondArp p cfg).ems := by
  rcases respondArp_cases p cfg with ⟨-, e⟩ | ⟨-, -, e⟩ | ⟨-, -, e⟩ <;> rw [e]
  · exact .inl rfl
  · exact .inl rfl
  · refine .inr ⟨_, rfl, ?_⟩
    rw [encodePacket, List.length_append, arpReplyPacket_hdr_length cfg hp, arpReplyPacket_pay]

theorem ethReplyHeader_length {h : Bytes} (m : Mac) (hlen : h.length = 14) : (ethReplyHeader h m).length = 14 := by
  simp [ethReplyHeader, memWrite, memRead, Mac.toBytes, hlen]

theorem decodePacket_length {lay : Layout} {b : Bytes} {p : Packet} (hp : decodePacket lay b = some p) :
    headerSize lay + p.pay.length = b.length := by
  obtain ⟨-, -, hpay, hlen⟩ := decodePacket_some hp
  rw [hpay, List.length_drop, Nat.add_sub_cancel' hlen]

theorem dispatchResult_arp_emits (b : Bytes) (cfg : Cfg) :
    ∃ h, dispatchResult .arp b cfg = .ok h ∧ AtMostOneBuffer b.length h.ems := by
  cases hp : decodePacket .arp b with
  | none => exact ⟨_, handle_of_short tables 0 cfg hp, .inl rfl⟩
  | some p =>
    refine ⟨_, dispatchResult_arp hp, ?_⟩
    rw [← decodePacket_length hp]
    exact respondArp_atMostOneBuffer cfg (decodePacket_hdr_length hp)

/-- ETH turns the one buffer of the inner layer, as long as the payload, into one as long as the frame. -/
theorem dispatchResult_eth_emits (b : Bytes) (cfg : Cfg) :
    ∃ h, dispatchResult .eth b cfg = .ok h ∧ AtMostOneBuffer b.length h.ems ∧
      (memRead b 12 2 = [0x08, 0x00] → h.ems = []) := by
  cases hp : decodePacket .eth b with
  | none => exact ⟨_, handle_of_short tables 2 cfg hp, .inl rfl, fun _ => rfl⟩
  | some p =>
    by_cases ha : acceptsOf .eth p cfg = true
    case neg => exact ⟨_, dispatchResult_eth_refused hp ha, .inl rfl, fun _ => rfl⟩
    by_cases hip4 : memRead b 12 2 = [0x08, 0x00]
    · obtain ⟨trs, hin⟩ := dispatchResult_ip4_ems p.pay cfg
      exact ⟨_, dispatchResult_eth_registered hp ha (registryOf_eth_ip4 hp hip4) hin, .inl rfl, fun _ => rfl⟩
    by_cases harp : memRead b 12 2 = [0x08, 0x06]
    · obtain ⟨inner, hin, hone⟩ := dispatchResult_arp_emits p.pay cfg
      refine ⟨_, dispatchResult_eth_registered hp ha (registryOf_eth_arp hp harp) hin, ?_, fun h => absurd h hip4⟩
      have hwrapped := hone.wrapAll (ethReplyHeader p.hdr cfg.lmac)
      rw [ethReplyHeader_length cfg.lmac (decodePacket_hdr_length hp)] at hwrapped
      rwa [← decodePacket_length hp]
    · exact ⟨_, dispatchResult_eth_unregistered hp ha (registryOf_eth_none hp harp hip4), .inl rfl, fun _ => rfl⟩

/-- Settles O41, layer by layer. -/
theorem dispatchEmitsAtMostOneBuffer : Obligations.DispatchEmitsAtMostOneBuffer := by
  intro lay b cfg
  cases lay with
  | arp =>
    obtain ⟨h, hd, hone⟩ := dispatchResult_arp_emits b cfg
    exact ⟨h, hd, hone, nofun, nofun⟩
  | ip4 =>
    obtain ⟨trs, hd⟩ := dispatchResult_ip4_ems b cfg
    exact ⟨_, hd, .inl rfl, fun _ => rfl, nofun⟩
  | eth =>
    obtain ⟨h, hd, hone, hip4⟩ := dispatchResult_eth_emits b cfg
    exact ⟨h, hd, hone, nofun, fun _ => hip4⟩

/-- The turned-around header of a frame, written out. -/
theorem ethReplyHeader_eq {dst src etype : Bytes} (m : Mac) (hd : dst.length = 6) (hs : src.length = 6) :
    ethReplyHeader (dst ++ src ++ etype) m = src ++ m.toBytes ++ etype := by
  simp [ethReplyHeader, memWrite, memRead, Mac.toBytes, List.take_append, List.drop_append, hd, hs]

/-- Settles O40: the frame decodes into its header and `body`, ETH accepts it and hands `body` to ARP. -/
theorem dispatchEthWrapsWhatArpEmits : Obligations.DispatchEthWrapsWhatArpEmits := by
  intro dst src body cfg inner hd hs ha hin
  have hp : decodePacket .eth (dst ++ src ++ [0x08, 0x06] ++ body) = some ⟨.eth, dst ++ src ++ [0x08, 0x06], body⟩ :=
    codecRoundTrip ⟨.eth, dst ++ src ++ [0x08, 0x06], body⟩ (by simp [hd, hs, headerSize])
  have hdst : memRead (dst ++ src ++ [0x08, 0x06] ++ body) 0 6 = dst := by simp [memRead, hd]
  have htype : memRead (dst ++ src ++ [0x08, 0x06] ++ body) 12 2 = [0x08, 0x06] := by
    simp [memRead, List.drop_append, List.drop_of_length_le, hd, hs]
  have haccepts := (acceptsOf_eth_iff (cfg := cfg) hp).mpr (hdst.symm ▸ ha)
  rw [dispatchResult_eth_registered hp haccepts (registryOf_eth_arp hp htype) hin, ethReplyHeader_eq cfg.lmac hd hs]
  rfl

/-! ### The response commands (42_response.md R165 to R167) -/

section Apply
variable (s : State) (sb : SlotId) (r : Response)

theorem State.emitAll_nil : s.emitAll [] = s := by
  rw [State.emitAll, List.append_nil]

/-- Without a reply only the trace and `E` are written. -/
theorem State.applyResponse_silent (evs : List TraceEvent) :
    s.applyResponse sb ⟨none, [], evs⟩ = (s.traceAll evs).setE false :=
  congrArg (State.setE · false) (s.traceAll evs).emitAll_nil

theorem State.applyResponse_emits : (s.applyResponse sb r).emits = s.emits ++ r.ems := by
  unfold State.applyResponse
  cases r.reply <;> rfl

theorem State.applyResponse_trace : (s.applyResponse sb r).trace = s.trace ++ r.trs := by
  unfold State.applyResponse
  cases r.reply <;> rfl

theorem State.applyResponse_e : (s.applyResponse sb r).st.e = r.reply.isSome := by
  unfold State.applyResponse
  cases r.reply <;> rfl

end Apply

section Commands
variable {s : State} {sa sb : SlotId} {lay : Layout} {p : Packet} {cfg : Cfg}

theorem State.lacksAddress (h : s.macv = false ∨ s.ipv = false) : s.lmac = none ∨ s.lip = none := by
  simpa [State.macv, State.ipv] using h

/-- Past `ESLOT` and `ELAY`, the configuration decides. -/
theorem execRespond_of_arp (hp : s.slot sa = some p) (hl : p.lay = .arp) :
    execRespond sa sb s = command s (s.config >>= fun cfg => pure (s.applyResponse sb (respondArp p cfg))) := by
  refine (command_bind_ok (State.packet_of_some hp) _).trans ?_
  rw [if_neg fun h => h hl]

theorem execRespond_of_config (hf : s.NoFault) (hp : s.slot sa = some p) (hl : p.lay = .arp) (hc : s.config = .ok cfg) :
    execRespond sa sb s = .next (s.applyResponse sb (respondArp p cfg)) :=
  (execRespond_of_arp hp hl).trans (command_bind_pure hf hc _)

theorem execDispatch_of_config {h : Handled} (hf : s.NoFault) (hc : s.config = .ok cfg)
    (hd : dispatchResult lay s.rx cfg = .ok h) (hlen : tooLong h.ems = false) :
    execDispatch lay s = .next (s.applyDispatch h) := by
  simp [execDispatch, hf, hc, hd, hlen]

theorem execDispatch_of_not_configured (hf : s.NoFault) (hc : s.config = .error .ecfg) :
    execDispatch lay s = .next (s.faulted .ecfg) := by
  simp [execDispatch, hf, hc, State.takeFault_of_noFault hf]

end Commands

/-- Settles O35: the checks in their order. -/
theorem responseCommandsFaultInOrder : Obligations.ResponseCommandsFaultInOrder := by
  refine fun s hf => ⟨fun sa sb hp => command_bind_error hf (State.packet_of_none hp) _, fun sa sb p hp hl => ?layout,
    fun sa sb p hp hl hc => ?unwritten, fun lay hc => ?dispatch⟩
  case layout =>
    refine (command_bind_ok (State.packet_of_some hp) _).trans ?_
    rw [if_pos hl]
    exact command_error hf .elay
  case unwritten =>
    exact (execRespond_of_arp hp hl).trans
      (command_bind_error hf (State.config_of_not_configured (State.lacksAddress hc)) _)
  case dispatch =>
    exact execDispatch_of_not_configured hf (State.config_of_not_configured (State.lacksAddress hc))

/-- Settles O36: the contract answers the request, and the reply's header is the one written out. -/
theorem respondAnswersARequest : Obligations.RespondAnswersARequest := by
  intro s sa sb m a h pay hf ⟨hm, ha⟩ hp hlen hip hoper
  have hreply : respondArp ⟨.arp, h, pay⟩ ⟨m, a, s.traceEn⟩ = _ :=
    respondArp_of_request hlen hip ((fget_arpOper_eq_one_iff hlen).mpr hoper)
  rw [exec, execRespond_of_config hf hp rfl (State.config_of_configured hm ha), hreply, arpReplyPacket_eq _ hlen]
  rfl

/-- Settles O37: the contract is silent on both packets, and traces only the second. -/
theorem respondIgnoresOtherPackets : Obligations.RespondIgnoresOtherPackets := by
  intro s sa sb m a h pay hf ⟨hm, ha⟩ hp hlen
  have hexec := execRespond_of_config (sb := sb) hf hp rfl (State.config_of_configured hm ha)
  refine ⟨fun hip => ?otherAddress, fun hip hoper => ?otherCode⟩
  case otherAddress =>
    have hsilent : respondArp ⟨.arp, h, pay⟩ ⟨m, a, s.traceEn⟩ = _ := respondArp_of_refused hip
    rw [exec, hexec, hsilent, State.applyResponse_silent, State.traceAll_nil]
    rfl
  case otherCode =>
    have hsilent : respondArp ⟨.arp, h, pay⟩ ⟨m, a, s.traceEn⟩ = _ :=
      respondArp_of_ignored hlen hip (mt (fget_arpOper_eq_one_iff hlen).mp hoper)
    rw [exec, hexec, hsilent, State.applyResponse_silent]
    rfl

/-- Settles O38: what nested dispatch emits is as long as `RX`, so `DISPATCH` does not fault. -/
theorem dispatchRunsTheReceivePath : Obligations.DispatchRunsTheReceivePath := by
  intro s lay m a hf ⟨hm, ha⟩ hrx
  obtain ⟨h, hd, hone, -, -⟩ := dispatchEmitsAtMostOneBuffer lay s.rx ⟨m, a, s.traceEn⟩
  have hlen : tooLong h.ems = false := AtMostOneBuffer.tooLong_eq_false hone hrx
  refine ⟨h, hd, hlen, ?_⟩
  rw [exec, execDispatch_of_config hf (State.config_of_configured hm ha) hd hlen]
  obtain ⟨ems, trs⟩ := h
  cases ems <;> rfl

/-- The contract emits exactly when it replies. -/
theorem respondArp_isSome_reply (p : Packet) (cfg : Cfg) :
    (respondArp p cfg).reply.isSome = !(respondArp p cfg).ems.isEmpty := by
  rw [respondArp_ems]
  cases (respondArp p cfg).reply <;> rfl

/-- Settles O39: both ways run the contract on the decoded packet with one configuration. -/
theorem dispatchArpIsDecodeThenRespond : Obligations.DispatchArpIsDecodeThenRespond := by
  intro s sa sb m a hf ⟨hm, ha⟩ hrx
  obtain ⟨h, hd, hone⟩ := dispatchResult_arp_emits s.rx ⟨m, a, s.traceEn⟩
  have hdispatch : exec (.dispatch .arp) s = .next (s.applyDispatch h) :=
    execDispatch_of_config hf (State.config_of_configured hm ha) hd (hone.tooLong_eq_false hrx)
  by_cases hshort : s.rx.length < headerSize .arp
  · refine ⟨_, _, execDecode_of_short hf hshort, hdispatch, nofun, fun _ => ?_⟩
    cases hd.symm.trans (dispatchResult_of_short _ hshort)
    rw [State.applyDispatch, State.traceAll_nil, State.emitAll_nil]
    rfl
  · have hlong := Nat.le_of_not_lt hshort
    refine ⟨_, _, execDecode_of_long hf hlong, hdispatch, fun _ => ⟨_, execRespond_of_config hf
      (State.slot_setSlot_same s sa _) rfl (State.config_of_configured hm ha), ?_⟩, nofun⟩
    cases hd.symm.trans (dispatchResult_arp (decodePacket_of_le hlong))
    rw [State.applyResponse_emits, State.applyResponse_trace, State.applyResponse_e, respondArp_isSome_reply]
    exact ⟨rfl, rfl, rfl⟩

/-- Settles O42: the command has no fault condition. -/
theorem emitInvokesTheContinuationOnTx : Obligations.EmitInvokesTheContinuationOnTx :=
  fun _ _ => ⟨decode_word_of_row WordInRow.emit 24, fun hf => command_ok hf⟩

end Sys2Proof.Machine
end

section
/-! PROOFS. The statements about the system: the host's moves, illegal words, and the commands `NOP`, `CSRR` and `CSRW`
(43_system.md). -/

namespace Sys2Proof.Machine
open Sys2Proof.Laws

/-! ### The host's moves and the command cycle (43_system.md R180, R184, R186) -/

/-- Settles O2: a reset keeps nothing but the host's own list and index. -/
theorem resetMoveRestoresTheResetState : Obligations.ResetMoveRestoresTheResetState :=
  fun _ _ hm => step_reset hm

/-- Settles O6: the command runs from the state whose list and index have advanced. -/
theorem stepRunsTheDecodedCommand : Obligations.StepRunsTheDecodedCommand :=
  fun _ _ _ _ _ hm hd => step_command_ok hm hd

/-- Settles O7: an illegal word enters the fault `ECMD`, and a halted unit enters no fault. -/
theorem stepFaultsOnIllegalWords : Obligations.StepFaultsOnIllegalWords := by
  intro s cw wdata rest e hm hd
  rw [step_command_error hm hd]
  refine ⟨fun hf => ?running, fun hf => ?halted⟩
  case running =>
    rw [State.takeFault_of_noFault (s := s.advanced rest) hf]
    rfl
  case halted =>
    rw [State.takeFault_of_halted (s := s.advanced rest) hf]
    rfl

/-- Settles O8: the length of the buffer alone decides between the load and the refusal. -/
theorem loadReplacesTheReceiveBuffer : Obligations.LoadReplacesTheReceiveBuffer :=
  fun _ _ _ hm => ⟨fun hb => (step_load hm).trans (if_pos hb), fun hb => (step_load hm).trans (if_neg hb.not_ge)⟩

/-! ### `NOP` (43_system.md R181) -/

/-- Only the row of `NOP` has its `op`, and that row covers one word. -/
theorem not_covered_of_op_zero {cw : Half} (hop : opBits cw = 0) (hcw : cw ≠ 0) : ∀ r ∈ opRows, ¬ r.covers cw = true := by
  intro r hr hc
  obtain rfl : r = opRows[0] := opRow_eq_of_op hr (List.getElem_mem _) ((opBits_of_covers hr hc).symm.trans hop)
  exact hcw (pattern_eq_of_covers hc rfl).symm

/-- Settles O15: a word of this `op` is `NOP` or no row covers it. -/
theorem nopChangesNothing : Obligations.NopChangesNothing :=
  ⟨fun _ => rfl, fun _ => decode_word_of_row WordInRow.nop 0,
    fun _ wdata hop hcw => decode_of_not_covered (not_covered_of_op_zero hop hcw) wdata⟩

/-! ### The words of `CSRR` and `CSRW` (30_encoding.md R74, R75) -/

theorem append_csrr_op (k : BitVec 4) : k ++ 0x001#12 = commandWord 0x01 0 0 k := by
  revert k
  decide

theorem append_csrw_op (k : BitVec 4) : k ++ 0x002#12 = commandWord 0x02 0 0 k := by
  revert k
  decide

theorem decode_csrr_word (csr : Csr) (wdata : Word) : decode (csr.bits ++ 0x001#12) wdata = .ok (.csrr csr) := by
  rw [append_csrr_op]
  exact decode_word_of_row (WordInRow.csrr csr) 1 (hread := readCsrr_encode csr)

theorem decode_csrw_word {csr : Csr} (hw : csr.writable = true) (v : Word) :
    decode (csr.bits ++ 0x002#12) v = .ok (.csrw csr v) := by
  rw [append_csrw_op]
  exact decodeOfEncode (.csrw csr v) hw

theorem decode_error_of_reserved {cw : Half} (h : ReservedOperand cw) (wdata : Word) : ∃ e, decode cw wdata = .error e :=
  (illegalWordsAreThoseOfTheRule cw wdata).mpr (.inr h)

theorem reservedOperand_csrr_iff (k : BitVec 4) : ReservedOperand (k ++ 0x001#12) ↔ 7 ≤ k.toNat := by
  simp [append_csrr_op, ReservedOperand]

theorem reservedOperand_csrw_iff (k : BitVec 4) :
    ReservedOperand (k ++ 0x002#12) ↔ 7 ≤ k.toNat ∨ k = 1 ∨ k = 2 ∨ k = 5 ∨ k = 6 := by
  simp [append_csrw_op, ReservedOperand]

/-! ### The words `CSRR` reads (43_system.md R182) -/

/-- Bits appended on the right are the less significant ones. -/
theorem toNat_append_eq_mul_add {m n : Nat} (x : BitVec m) (y : BitVec n) : (x ++ y).toNat = x.toNat * 2 ^ n + y.toNat := by
  rw [BitVec.toNat_append, ← Nat.shiftLeft_add_eq_or_of_lt y.isLt, Nat.shiftLeft_eq]

theorem ctlWord_eq (s : State) :
    ctlWord s = BitVec.ofNat 64 (4 * s.ipv.toNat + 2 * s.macv.toNat + s.traceEn.toNat) := by
  rw [ctlWord, ← BitVec.ofNat_toNat]
  simp only [toNat_append_eq_mul_add, BitVec.toNat_ofBool]
  congr 1
  omega

theorem stWord_eq (s : State) :
    stWord s = BitVec.ofNat 64 (8 * s.st.f.toNat + 4 * s.st.e.toNat + 2 * s.st.z.toNat + s.st.v.toNat) := by
  rw [stWord, ← BitVec.ofNat_toNat]
  simp only [toNat_append_eq_mul_add, BitVec.toNat_ofBool]
  congr 1
  omega

/-- An address as a number is its bytes packed, the most significant first (20_memory.md R43). -/
theorem Mac.toNat_toBits (m : Mac) : m.toBits.toNat = pack m.toBytes := by
  change BitVec.toNat (w := 8 + 8 + 8 + 8 + 8 + 8) (m.b0 ++ m.b1 ++ m.b2 ++ m.b3 ++ m.b4 ++ m.b5) = _
  simp only [toNat_append_eq_mul_add]
  simp [Mac.toBytes, pack]

theorem Ip4.toNat_toBits (a : Ip4) : a.toBits.toNat = pack a.toBytes := by
  change BitVec.toNat (w := 8 + 8 + 8 + 8) (a.b0 ++ a.b1 ++ a.b2 ++ a.b3) = _
  simp only [toNat_append_eq_mul_add]
  simp [Ip4.toBytes, pack]

section Csrr
variable {s : State} {csr : Csr}

theorem csrValue_lmac {m : Mac} (h : s.lmac = some m) : csrValue .lmac s = .ok (BitVec.ofNat 64 (pack m.toBytes)) := by
  rw [← Mac.toNat_toBits, BitVec.ofNat_toNat, csrValue, State.localMac, h]
  rfl

theorem csrValue_lip {a : Ip4} (h : s.lip = some a) : csrValue .lip s = .ok (BitVec.ofNat 64 (pack a.toBytes)) := by
  rw [← Ip4.toNat_toBits, BitVec.ofNat_toNat, csrValue, State.localIp, h]
  rfl

theorem csrValue_lmac_unwritten (h : s.lmac = none) : csrValue .lmac s = .error .ecfg := by
  rw [csrValue, State.localMac, h]
  rfl

theorem csrValue_lip_unwritten (h : s.lip = none) : csrValue .lip s = .error .ecfg := by
  rw [csrValue, State.localIp, h]
  rfl

theorem exec_csrr_of_ok {v : Word} (h : csrValue csr s = .ok v) : exec (.csrr csr) s = .next (s.setRes v) := by
  rw [exec, execCsrr, h]
  rfl

theorem exec_csrr_of_error {c : Cause} (h : csrValue csr s = .error c) :
    exec (.csrr csr) s = .next (if s.st.f then s else s.faulted c) := by
  rw [exec, execCsrr, h]
  rfl

end Csrr

/-- Settles O16, register by register: a read writes `RES` with the register's value, halted or not, and the entry of a fault
asks whether the unit is halted. -/
theorem csrrReadsTheRegister : Obligations.CsrrReadsTheRegister := by
  refine fun s => ⟨decode_csrr_word, fun k wdata hk => ?reserved, ?ctl, ?st, ?fcause,
    fun m hm => exec_csrr_of_ok (csrValue_lmac hm), fun a ha => exec_csrr_of_ok (csrValue_lip ha),
    fun hm => exec_csrr_of_error (csrValue_lmac_unwritten hm), fun ha => exec_csrr_of_error (csrValue_lip_unwritten ha),
    exec_csrr_of_ok rfl, exec_csrr_of_ok rfl⟩
  case reserved => exact decode_error_of_reserved ((reservedOperand_csrr_iff k).mpr hk) wdata
  case ctl =>
    rw [← ctlWord_eq]
    exact exec_csrr_of_ok rfl
  case st =>
    rw [← stWord_eq]
    exact exec_csrr_of_ok rfl
  case fcause =>
    rw [BitVec.ofNat_toNat]
    exact exec_csrr_of_ok rfl

/-! ### What `CSRW` writes (43_system.md R183) -/

/-- An operand of one bit is 1 exactly when its bit 0 is. -/
theorem getLsbD_zero_of_lt {v : Word} (h : v.toNat < 2) : v.getLsbD 0 = decide (v = 1) := by
  have hv : v.toNat % 2 = 1 ↔ v = 1 := by
    rw [Nat.mod_eq_of_lt h]
    exact BitVec.toNat_inj (y := 1)
  rw [BitVec.getLsbD, Nat.testBit_zero, decide_eq_decide.mpr hv]

theorem exec_csrw_readOnly {s : State} (hf : s.NoFault) {csr : Csr} (hw : csr.writable = false) (v : Word) :
    exec (.csrw csr v) s = .next (s.faulted .ecmd) := by
  cases csr with
  | ctl => cases hw
  | lmac => cases hw
  | lip => cases hw
  | st => exact command_error hf .ecmd
  | fcause => exact command_error hf .ecmd
  | rxlen => exact command_error hf .ecmd
  | txlen => exact command_error hf .ecmd

/-- Settles O17: the word's register number, then for each writable register the width check. -/
theorem csrwWritesTheRegister : Obligations.CsrwWritesTheRegister := by
  refine fun s v hf => ⟨fun csr hw => decode_csrw_word hw v, fun k hk => ?reserved,
    fun hv => ?ctl, fun hv => command_bind_error hf (operand_of_not_lt hv.not_gt) _,
    fun hv => ⟨_, Mac.toBytes_ofBits_setWidth v, command_bind_pure hf (operand_of_lt hv) _⟩,
    fun hv => command_bind_error hf (operand_of_not_lt hv.not_gt) _,
    fun hv => ⟨_, Ip4.toBytes_ofBits_setWidth v, command_bind_pure hf (operand_of_lt hv) _⟩,
    fun hv => command_bind_error hf (operand_of_not_lt hv.not_gt) _, fun csr hw => exec_csrw_readOnly hf hw v⟩
  case reserved =>
    refine decode_error_of_reserved ((reservedOperand_csrw_iff k).mpr ?_) v
    tauto
  case ctl =>
    rw [← getLsbD_zero_of_lt hv]
    exact command_bind_pure hf (operand_of_lt hv) _

end Sys2Proof.Machine
end

section
/-! PROOFS. The statements about exceptions: how a fault is entered, what a halted unit does, and what cannot fault
(60_exceptions.md). -/

namespace Sys2Proof.Machine

/-! ### A command and the fault record (60_exceptions.md R203, R205) -/

section Commands
variable {s t : State} {i : Instr} {lay : Layout}

theorem execDispatch_of_halted (hf : s.st.f = true) : execDispatch lay s = .next s := if_pos hf

/-- A command keeps `F` and `FCAUSE`, or it enters one fault. -/
theorem Ran.faultRecord_cases (h : Ran s i t) :
    (t.st.f = s.st.f ∧ t.fcause = s.fcause) ∨ ∃ c, t = s.faulted c := by
  cases h with
  | faulted c hf => exact .inr ⟨c, rfl⟩
  | _ => exact .inl ⟨rfl, rfl⟩

end Commands

/-- Settles O44: `NOP` does nothing in any state, `DISPATCH` asks for `F` itself, and every other command asks for it in the
command cycle. -/
theorem haltedUnitIgnoresCommands : Obligations.HaltedUnitIgnoresCommands := by
  intro s i hf hw hcsrr
  cases i with
  | nop => rfl
  | csrr csr => exact absurd rfl (hcsrr csr)
  | dispatch lay => exact execDispatch_of_halted hf
  | arpRequest => cases hw
  | arpReply => cases hw
  | _ => exact command_of_halted hf _

/-- Settles O45: of everything a command can do, only the entry of a fault writes `F` or `FCAUSE`. -/
theorem faultsArePrecise : Obligations.FaultsArePrecise := by
  intro s t i hf h
  rcases (exec_ran h).faultRecord_cases with ⟨hst, hcause⟩ | hfault
  · exact .inl ⟨hst.trans hf, hcause⟩
  · exact .inr hfault

/-! ### Contents of `RX` and the fault record (60_exceptions.md R201) -/

theorem State.applyResponse_f (s : State) (sb : SlotId) (r : Response) : (s.applyResponse sb r).st.f = s.st.f := by
  unfold State.applyResponse
  cases r.reply <;> rfl

/-- `DECODE` has no fault condition: a short buffer and a long one both complete (41_codec.md R130). -/
theorem execDecode_completes_without_fault {s : State} (hf : s.NoFault) (sa : SlotId) (lay : Layout) :
    ∃ t, execDecode sa lay s = .next t ∧ t.st.f = false := by
  rcases Nat.lt_or_ge s.rx.length (headerSize lay) with h | h
  · exact ⟨_, execDecode_of_short hf h, hf⟩
  · exact ⟨_, execDecode_of_long hf h, hf⟩

/-- Settles O47: `DECODE` has no fault condition; with the addresses configured, `DISPATCH` could only fault on a buffer longer
than `RX` may be, and `RESPOND` only on the slot, which the premise fills with an ARP packet. -/
theorem noContentOfRxFaults : Obligations.NoContentOfRxFaults := by
  refine fun s hf => ⟨execDecode_completes_without_fault hf, fun m a ⟨hm, ha⟩ => ⟨fun lay hrx => ?dispatch,
    fun sa sb p hp hl => ?respond⟩⟩
  case dispatch =>
    obtain ⟨h, -, -, hexec⟩ := dispatchRunsTheReceivePath s lay m a hf ⟨hm, ha⟩ hrx
    exact ⟨_, hexec, hf⟩
  case respond =>
    exact ⟨_, execRespond_of_config hf hp hl (State.config_of_configured hm ha), (State.applyResponse_f ..).trans hf⟩

/-! ### Reading the fault record (60_exceptions.md R202, 43_system.md R182) -/

/-- `F` is bit 3 of `ST`. -/
theorem stWord_getLsbD_three (s : State) : (stWord s).getLsbD 3 = s.st.f := by
  simp only [stWord, BitVec.getLsbD_setWidth, BitVec.getLsbD_append]
  simp

/-- Settles O59, cause by cause; the entry of the fault has set `F`. -/
theorem faultCausesReadAsTheirCodes : Obligations.FaultCausesReadAsTheirCodes := by
  intro s c
  refine ⟨?fcause, _, exec_csrr_of_ok rfl, stWord_getLsbD_three (s.faulted c), rfl⟩
  case fcause => cases c <;> exact exec_csrr_of_ok rfl

end Sys2Proof.Machine
end

section
/-! PROOFS. The statement about reset: the halt and the configuration that only it clears (60_exceptions.md R205,
70_reset_and_hazards.md R230). -/

namespace Sys2Proof.Machine

/-- What reset alone may undo: a unit halted in `s` is halted in `t` with the same cause, and an address written in `s` is
written in `t` (10_state.md R20, R22). -/
def KeepsHaltAndConfiguration (s t : State) : Prop :=
  (s.st.f = true → t.st.f = true ∧ t.fcause = s.fcause) ∧ (s.macv = true → t.macv = true) ∧ (s.ipv = true → t.ipv = true)

section Keeps
variable {s t : State}

theorem KeepsHaltAndConfiguration.of_eq (hst : t.st.f = s.st.f) (hcause : t.fcause = s.fcause) (hmac : t.lmac = s.lmac)
    (hip : t.lip = s.lip) : KeepsHaltAndConfiguration s t := by
  simp [KeepsHaltAndConfiguration, State.macv, State.ipv, hst, hcause, hmac, hip]

/-- The first fault halts the unit, so a halted unit's cause is not written over. -/
theorem State.keepsHaltAndConfiguration_faulted (hf : s.st.f = false) (c : Cause) :
    KeepsHaltAndConfiguration s (s.faulted c) :=
  ⟨fun hhalt => absurd (hf.symm.trans hhalt) Bool.false_ne_true, id, id⟩

theorem State.keepsHaltAndConfiguration_takeFault (s : State) (c : Cause) :
    KeepsHaltAndConfiguration s (s.takeFault c) := by
  cases hf : s.st.f with
  | true => rw [State.takeFault_of_halted hf]; exact .of_eq rfl rfl rfl rfl
  | false => rw [State.takeFault_of_noFault hf]; exact keepsHaltAndConfiguration_faulted hf c

/-- A command enters a fault from a running unit only, and the only writes of an address configure it. -/
theorem Ran.keepsHaltAndConfiguration {i : Instr} (h : Ran s i t) : KeepsHaltAndConfiguration s t := by
  cases h with
  | faulted c hf => exact State.keepsHaltAndConfiguration_faulted hf c
  | lmac v => exact ⟨fun hf => ⟨hf, rfl⟩, fun _ => rfl, id⟩
  | lip v => exact ⟨fun hf => ⟨hf, rfl⟩, id, fun _ => rfl⟩
  | _ => exact .of_eq rfl rfl rfl rfl

end Keeps

/-- Settles O3, move by move: a move other than reset hands on a state that differs from `s` in the host's list and index alone,
and neither a load, nor a command, nor the fault of an illegal word ends a halt or unconfigures an address. -/
theorem onlyResetClearsHaltAndConfiguration : Obligations.OnlyResetClearsHaltAndConfiguration := by
  intro s t h hreset
  change KeepsHaltAndConfiguration s t
  cases hm : s.moves with
  | nil => rw [step_idle hm] at h; cases h; exact .of_eq rfl rfl rfl rfl
  | cons m rest =>
    cases m with
    | load b =>
      rw [step_load hm] at h
      obtain ⟨-, rfl⟩ := hostLoad_next h
      exact .of_eq rfl rfl rfl rfl
    | observe => rw [step_observe hm] at h; cases h; exact .of_eq rfl rfl rfl rfl
    | reset => exact absurd hm (hreset rest)
    | command cw wdata =>
      cases hd : decode cw wdata with
      | ok i =>
        rw [step_command_ok hm hd] at h
        exact (exec_ran h).keepsHaltAndConfiguration
      | error e =>
        rw [step_command_error hm hd] at h
        cases h
        exact (s.advanced rest).keepsHaltAndConfiguration_takeFault .ecmd

end Sys2Proof.Machine
end
